-- ==== Sys2Proof/Word.lean ====
section
/-! DEFINITION. The words of the machine: bytes, program words, program addresses, register numbers (spec rules R6, R7, R34). -/

namespace Sys2Proof

/-- An 8-bit value: a general register, SREG, RAMPZ, EIND, a data byte (R30, `REG_BITS`). -/
abbrev Byte := BitVec 8

/-- A 16-bit value: a program word, a register pair, a data address, SP (R17, R31, R40, R62). -/
abbrev Word := BitVec 16

/-- A word address of program memory, `PC_BITS` = 22 bits at most (R34). -/
abbrev PcAddr := BitVec 22

/-- The number of a general register, 0 to 31 (R30). -/
abbrev Reg := BitVec 5

/-- `hi:lo`, the 16-bit value of a register pair or of two bytes, high byte first (R7, R10). -/
def joinBytes (hi lo : Byte) : Word := hi ++ lo

/-- `v[7:0]` (R11). -/
def lowByte (v : Word) : Byte := v.extractLsb' 0 8

/-- `v[15:8]` (R11). -/
def highByte (v : Word) : Byte := v.extractLsb' 8 8

end Sys2Proof
end

