-- ==== Sys2Proof/Syntax.lean ====
section
/-! DEFINITION. The instructions: one constructor for each of the 136 rows of spec/opcode_table.json, in the table's order.
Register operands are register numbers 0 to 31 as the mnemonic names them; which of them a row's field can hold is
`Instr.wf` (WellFormed.lean). Relative displacements are the two's complement fields of rule R109. The rows that rule
R118 calls alias rows (another name for a real row's words) have constructors of their own; `Instr.expand`
(Decode.lean) gives the real instruction each stands for. -/

namespace Sys2Proof

inductive Instr where
  /-- `ADD Rd,Rr` (R134). -/
  | add (d : Reg) (r : Reg)
  /-- `ADC Rd,Rr` (R135). -/
  | adc (d : Reg) (r : Reg)
  /-- `ADIW Rd,K` (R136). -/
  | adiw (d : Reg) (k : BitVec 6)
  /-- `SUB Rd,Rr` (R137). -/
  | sub (d : Reg) (r : Reg)
  /-- `SUBI Rd,K` (R138). -/
  | subi (d : Reg) (k : Byte)
  /-- `SBC Rd,Rr` (R139). -/
  | sbc (d : Reg) (r : Reg)
  /-- `SBCI Rd,K` (R140). -/
  | sbci (d : Reg) (k : Byte)
  /-- `SBIW Rd,K` (R141). -/
  | sbiw (d : Reg) (k : BitVec 6)
  /-- `AND Rd,Rr` (R142). -/
  | and (d : Reg) (r : Reg)
  /-- `ANDI Rd,K` (R143). -/
  | andi (d : Reg) (k : Byte)
  /-- `OR Rd,Rr` (R144). -/
  | or (d : Reg) (r : Reg)
  /-- `ORI Rd,K` (R145). -/
  | ori (d : Reg) (k : Byte)
  /-- `EOR Rd,Rr` (R146). -/
  | eor (d : Reg) (r : Reg)
  /-- `COM Rd` (R147). -/
  | com (d : Reg)
  /-- `NEG Rd` (R148). -/
  | neg (d : Reg)
  /-- `SBR Rd,K` (R149), another name of `ORI Rd,K`. -/
  | sbr (d : Reg) (k : Byte)
  /-- `CBR Rd,K` (R150), another name of `ANDI Rd,(0xFF-K)`. -/
  | cbr (d : Reg) (k : Byte)
  /-- `INC Rd` (R151). -/
  | inc (d : Reg)
  /-- `DEC Rd` (R152). -/
  | dec (d : Reg)
  /-- `TST Rr` (R153), another name of `AND Rr,Rr`. -/
  | tst (r : Reg)
  /-- `CLR Rd` (R154), another name of `EOR Rd,Rd`. -/
  | clr (d : Reg)
  /-- `SER Rd` (R155), another name of `LDI Rd,0xFF`. -/
  | ser (d : Reg)
  /-- `MUL Rd,Rr` (R156). -/
  | mul (d : Reg) (r : Reg)
  /-- `MULS Rd,Rr` (R157). -/
  | muls (d : Reg) (r : Reg)
  /-- `MULSU Rd,Rr` (R158). -/
  | mulsu (d : Reg) (r : Reg)
  /-- `FMUL Rd,Rr` (R159). -/
  | fmul (d : Reg) (r : Reg)
  /-- `FMULS Rd,Rr` (R160). -/
  | fmuls (d : Reg) (r : Reg)
  /-- `FMULSU Rd,Rr` (R161). -/
  | fmulsu (d : Reg) (r : Reg)
  /-- `MOV Rd,Rr` (R171). -/
  | mov (d : Reg) (r : Reg)
  /-- `MOVW Rd,Rr` (R172). -/
  | movw (d : Reg) (r : Reg)
  /-- `LDI Rd,K` (R173). -/
  | ldi (d : Reg) (k : Byte)
  /-- `LDS Rd,k` (R174). -/
  | lds (d : Reg) (k : Word)
  /-- `LD Rd,X` (R175). -/
  | ldX (d : Reg)
  /-- `LD Rd,Y` (R175), another name of `LDD Rd,Y+0`. -/
  | ldY (d : Reg)
  /-- `LD Rd,Z` (R175), another name of `LDD Rd,Z+0`. -/
  | ldZ (d : Reg)
  /-- `LD Rd,X+` (R176). -/
  | ldXInc (d : Reg)
  /-- `LD Rd,Y+` (R176). -/
  | ldYInc (d : Reg)
  /-- `LD Rd,Z+` (R176). -/
  | ldZInc (d : Reg)
  /-- `LD Rd,-X` (R177). -/
  | ldXDec (d : Reg)
  /-- `LD Rd,-Y` (R177). -/
  | ldYDec (d : Reg)
  /-- `LD Rd,-Z` (R177). -/
  | ldZDec (d : Reg)
  /-- `LDD Rd,Y+q` (R178). -/
  | lddY (d : Reg) (q : BitVec 6)
  /-- `LDD Rd,Z+q` (R178). -/
  | lddZ (d : Reg) (q : BitVec 6)
  /-- `STS k,Rr` (R179). -/
  | sts (k : Word) (r : Reg)
  /-- `ST X,Rr` (R180). -/
  | stX (r : Reg)
  /-- `ST Y,Rr` (R180), another name of `STD Y+0,Rr`. -/
  | stY (r : Reg)
  /-- `ST Z,Rr` (R180), another name of `STD Z+0,Rr`. -/
  | stZ (r : Reg)
  /-- `ST X+,Rr` (R181). -/
  | stXInc (r : Reg)
  /-- `ST Y+,Rr` (R181). -/
  | stYInc (r : Reg)
  /-- `ST Z+,Rr` (R181). -/
  | stZInc (r : Reg)
  /-- `ST -X,Rr` (R182). -/
  | stXDec (r : Reg)
  /-- `ST -Y,Rr` (R182). -/
  | stYDec (r : Reg)
  /-- `ST -Z,Rr` (R182). -/
  | stZDec (r : Reg)
  /-- `STD Y+q,Rr` (R183). -/
  | stdY (q : BitVec 6) (r : Reg)
  /-- `STD Z+q,Rr` (R183). -/
  | stdZ (q : BitVec 6) (r : Reg)
  /-- `LPM` (R184). -/
  | lpm
  /-- `LPM Rd,Z` (R185). -/
  | lpmZ (d : Reg)
  /-- `LPM Rd,Z+` (R186). -/
  | lpmZInc (d : Reg)
  /-- `ELPM` (R187). -/
  | elpm
  /-- `ELPM Rd,Z` (R188). -/
  | elpmZ (d : Reg)
  /-- `ELPM Rd,Z+` (R189). -/
  | elpmZInc (d : Reg)
  /-- `SPM` (R190). -/
  | spm
  /-- `IN Rd,A` (R191). -/
  | ioIn (d : Reg) (a : BitVec 6)
  /-- `OUT A,Rr` (R192). -/
  | ioOut (a : BitVec 6) (r : Reg)
  /-- `PUSH Rr` (R193). -/
  | push (r : Reg)
  /-- `POP Rd` (R194). -/
  | pop (d : Reg)
  /-- `BREAK` (R210). -/
  | brk
  /-- `NOP` (R211). -/
  | nop
  /-- `SLEEP` (R212). -/
  | sleep
  /-- `WDR` (R213). -/
  | wdr
  /-- `RJMP k` (R222). -/
  | rjmp (k : BitVec 12)
  /-- `IJMP` (R223). -/
  | ijmp
  /-- `EIJMP` (R224). -/
  | eijmp
  /-- `JMP k` (R225). -/
  | jmp (k : PcAddr)
  /-- `RCALL k` (R226). -/
  | rcall (k : BitVec 12)
  /-- `ICALL` (R227). -/
  | icall
  /-- `EICALL` (R228). -/
  | eicall
  /-- `CALL k` (R229). -/
  | call (k : PcAddr)
  /-- `RET` (R230). -/
  | ret
  /-- `RETI` (R231). -/
  | reti
  /-- `CPSE Rd,Rr` (R232). -/
  | cpse (d : Reg) (r : Reg)
  /-- `CP Rd,Rr` (R233). -/
  | cp (d : Reg) (r : Reg)
  /-- `CPC Rd,Rr` (R234). -/
  | cpc (d : Reg) (r : Reg)
  /-- `CPI Rd,K` (R235). -/
  | cpi (d : Reg) (k : Byte)
  /-- `SBRC Rr,b` (R236). -/
  | sbrc (r : Reg) (b : BitVec 3)
  /-- `SBRS Rr,b` (R237). -/
  | sbrs (r : Reg) (b : BitVec 3)
  /-- `SBIC A,b` (R238). -/
  | sbic (a : BitVec 5) (b : BitVec 3)
  /-- `SBIS A,b` (R239). -/
  | sbis (a : BitVec 5) (b : BitVec 3)
  /-- `BRBS s,k` (R240). -/
  | brbs (n : BitVec 3) (k : BitVec 7)
  /-- `BRBC s,k` (R241). -/
  | brbc (n : BitVec 3) (k : BitVec 7)
  /-- `BREQ k` (R242), another name of `BRBS 1,k`. -/
  | breq (k : BitVec 7)
  /-- `BRNE k` (R243), another name of `BRBC 1,k`. -/
  | brne (k : BitVec 7)
  /-- `BRCS k` (R244), another name of `BRBS 0,k`. -/
  | brcs (k : BitVec 7)
  /-- `BRCC k` (R245), another name of `BRBC 0,k`. -/
  | brcc (k : BitVec 7)
  /-- `BRSH k` (R246), another name of `BRBC 0,k`. -/
  | brsh (k : BitVec 7)
  /-- `BRLO k` (R247), another name of `BRBS 0,k`. -/
  | brlo (k : BitVec 7)
  /-- `BRMI k` (R248), another name of `BRBS 2,k`. -/
  | brmi (k : BitVec 7)
  /-- `BRPL k` (R249), another name of `BRBC 2,k`. -/
  | brpl (k : BitVec 7)
  /-- `BRGE k` (R250), another name of `BRBC 4,k`. -/
  | brge (k : BitVec 7)
  /-- `BRLT k` (R251), another name of `BRBS 4,k`. -/
  | brlt (k : BitVec 7)
  /-- `BRHS k` (R252), another name of `BRBS 5,k`. -/
  | brhs (k : BitVec 7)
  /-- `BRHC k` (R253), another name of `BRBC 5,k`. -/
  | brhc (k : BitVec 7)
  /-- `BRTS k` (R254), another name of `BRBS 6,k`. -/
  | brts (k : BitVec 7)
  /-- `BRTC k` (R255), another name of `BRBC 6,k`. -/
  | brtc (k : BitVec 7)
  /-- `BRVS k` (R256), another name of `BRBS 3,k`. -/
  | brvs (k : BitVec 7)
  /-- `BRVC k` (R257), another name of `BRBC 3,k`. -/
  | brvc (k : BitVec 7)
  /-- `BRIE k` (R258), another name of `BRBS 7,k`. -/
  | brie (k : BitVec 7)
  /-- `BRID k` (R259), another name of `BRBC 7,k`. -/
  | brid (k : BitVec 7)
  /-- `SBI A,b` (R270). -/
  | sbi (a : BitVec 5) (b : BitVec 3)
  /-- `CBI A,b` (R271). -/
  | cbi (a : BitVec 5) (b : BitVec 3)
  /-- `LSL Rd` (R272), another name of `ADD Rd,Rd`. -/
  | lsl (d : Reg)
  /-- `LSR Rd` (R273). -/
  | lsr (d : Reg)
  /-- `ROL Rd` (R274), another name of `ADC Rd,Rd`. -/
  | rol (d : Reg)
  /-- `ROR Rd` (R275). -/
  | ror (d : Reg)
  /-- `ASR Rd` (R276). -/
  | asr (d : Reg)
  /-- `SWAP Rd` (R277). -/
  | swap (d : Reg)
  /-- `BSET s` (R278). -/
  | bset (n : BitVec 3)
  /-- `BCLR s` (R279). -/
  | bclr (n : BitVec 3)
  /-- `BST Rr,b` (R280). -/
  | bst (r : Reg) (b : BitVec 3)
  /-- `BLD Rd,b` (R281). -/
  | bld (d : Reg) (b : BitVec 3)
  /-- `SEC` (R282), another name of `BSET 0`. -/
  | sec
  /-- `CLC` (R283), another name of `BCLR 0`. -/
  | clc
  /-- `SEZ` (R284), another name of `BSET 1`. -/
  | sez
  /-- `CLZ` (R285), another name of `BCLR 1`. -/
  | clz
  /-- `SEN` (R286), another name of `BSET 2`. -/
  | sen
  /-- `CLN` (R287), another name of `BCLR 2`. -/
  | cln
  /-- `SEV` (R288), another name of `BSET 3`. -/
  | sev
  /-- `CLV` (R289), another name of `BCLR 3`. -/
  | clv
  /-- `SES` (R290), another name of `BSET 4`. -/
  | ses
  /-- `CLS` (R291), another name of `BCLR 4`. -/
  | cls
  /-- `SEH` (R292), another name of `BSET 5`. -/
  | seh
  /-- `CLH` (R293), another name of `BCLR 5`. -/
  | clh
  /-- `SET` (R294), another name of `BSET 6`. -/
  | set
  /-- `CLT` (R295), another name of `BCLR 6`. -/
  | clt
  /-- `SEI` (R296), another name of `BSET 7`. -/
  | sei
  /-- `CLI` (R297), another name of `BCLR 7`. -/
  | cli
  deriving DecidableEq, Repr

end Sys2Proof
end

