-- ==== Sys2Proof/WellFormed.lean ====
section
/-! DEFINITION. Well-formed instructions: the operands that an encoding can hold (spec rules R110, R120; source notes 2, 3,
5, 6). The case of note 7 is not a condition here: it is encodable (R116) and faults when executed (R170). Constants,
displacements, I/O addresses, bit and flag numbers are in range by their types. -/

namespace Sys2Proof

/-- R16 to R31 (note 2). -/
def Reg.isUpper (d : Reg) : Bool := 16 ≤ d.toNat

/-- R16 to R23 (note 5). -/
def Reg.isMiddle (d : Reg) : Bool := 16 ≤ d.toNat && d.toNat < 24

/-- The low registers R24, R26, R28, R30 of the pairs ADIW and SBIW reach (note 3). -/
def Reg.isWordPair (d : Reg) : Bool := 24 ≤ d.toNat && d.toNat % 2 == 0

/-- The even registers, the low registers of MOVW's pairs (note 6). -/
def Reg.isEven (d : Reg) : Bool := d.toNat % 2 == 0

/-- The register operands of `i` are ones its encoding can hold (R120). -/
def Instr.wf : Instr → Bool
  | .add _ _ => true
  | .adc _ _ => true
  | .adiw d _ => d.isWordPair
  | .sub _ _ => true
  | .subi d _ => d.isUpper
  | .sbc _ _ => true
  | .sbci d _ => d.isUpper
  | .sbiw d _ => d.isWordPair
  | .and _ _ => true
  | .andi d _ => d.isUpper
  | .or _ _ => true
  | .ori d _ => d.isUpper
  | .eor _ _ => true
  | .com _ => true
  | .neg _ => true
  | .sbr d _ => d.isUpper
  | .cbr d _ => d.isUpper
  | .inc _ => true
  | .dec _ => true
  | .tst _ => true
  | .clr _ => true
  | .ser d => d.isUpper
  | .mul _ _ => true
  | .muls d r => d.isUpper && r.isUpper
  | .mulsu d r => d.isMiddle && r.isMiddle
  | .fmul d r => d.isMiddle && r.isMiddle
  | .fmuls d r => d.isMiddle && r.isMiddle
  | .fmulsu d r => d.isMiddle && r.isMiddle
  | .mov _ _ => true
  | .movw d r => d.isEven && r.isEven
  | .ldi d _ => d.isUpper
  | .lds _ _ => true
  | .ldX _ => true
  | .ldY _ => true
  | .ldZ _ => true
  | .ldXInc _ => true
  | .ldYInc _ => true
  | .ldZInc _ => true
  | .ldXDec _ => true
  | .ldYDec _ => true
  | .ldZDec _ => true
  | .lddY _ _ => true
  | .lddZ _ _ => true
  | .sts _ _ => true
  | .stX _ => true
  | .stY _ => true
  | .stZ _ => true
  | .stXInc _ => true
  | .stYInc _ => true
  | .stZInc _ => true
  | .stXDec _ => true
  | .stYDec _ => true
  | .stZDec _ => true
  | .stdY _ _ => true
  | .stdZ _ _ => true
  | .lpm => true
  | .lpmZ _ => true
  | .lpmZInc _ => true
  | .elpm => true
  | .elpmZ _ => true
  | .elpmZInc _ => true
  | .spm => true
  | .ioIn _ _ => true
  | .ioOut _ _ => true
  | .push _ => true
  | .pop _ => true
  | .brk => true
  | .nop => true
  | .sleep => true
  | .wdr => true
  | .rjmp _ => true
  | .ijmp => true
  | .eijmp => true
  | .jmp _ => true
  | .rcall _ => true
  | .icall => true
  | .eicall => true
  | .call _ => true
  | .ret => true
  | .reti => true
  | .cpse _ _ => true
  | .cp _ _ => true
  | .cpc _ _ => true
  | .cpi d _ => d.isUpper
  | .sbrc _ _ => true
  | .sbrs _ _ => true
  | .sbic _ _ => true
  | .sbis _ _ => true
  | .brbs _ _ => true
  | .brbc _ _ => true
  | .breq _ => true
  | .brne _ => true
  | .brcs _ => true
  | .brcc _ => true
  | .brsh _ => true
  | .brlo _ => true
  | .brmi _ => true
  | .brpl _ => true
  | .brge _ => true
  | .brlt _ => true
  | .brhs _ => true
  | .brhc _ => true
  | .brts _ => true
  | .brtc _ => true
  | .brvs _ => true
  | .brvc _ => true
  | .brie _ => true
  | .brid _ => true
  | .sbi _ _ => true
  | .cbi _ _ => true
  | .lsl _ => true
  | .lsr _ => true
  | .rol _ => true
  | .ror _ => true
  | .asr _ => true
  | .swap _ => true
  | .bset _ => true
  | .bclr _ => true
  | .bst _ _ => true
  | .bld _ _ => true
  | .sec => true
  | .clc => true
  | .sez => true
  | .clz => true
  | .sen => true
  | .cln => true
  | .sev => true
  | .clv => true
  | .ses => true
  | .cls => true
  | .seh => true
  | .clh => true
  | .set => true
  | .clt => true
  | .sei => true
  | .cli => true

end Sys2Proof
end

