-- ==== Sys2Proof/Decode.lean ====
section
/-! DEFINITION. Decoding and encoding (spec 30_encoding.md rules R90 to R119). `decode` is total on any bytes and rejects
by name; only the real rows of the opcode table are decoded (R119). `encode` writes the words of every row. -/

namespace Sys2Proof

/-- `IsTwoWord` of rule R91: the first words of LDS, STS, JMP and CALL. -/
def isTwoWord (w : Word) : Bool :=
  (w &&& 0xFC0F#16) == 0x9000#16 || (w &&& 0xFE0C#16) == 0x940C#16

/-- The five-bit register field `w[8:4]` of formats RR5, R1, LDST, DISP, IO and RBIT. -/
def fieldD (w : Word) : Reg := w.extractLsb' 4 5

/-- The five-bit source register field `w[9]:w[3:0]` of format RR5 (R93). -/
def fieldR (w : Word) : Reg := w.extractLsb' 9 1 ++ w.extractLsb' 0 4

/-- The register 16 + `w[7:4]` of formats IMM8 and RR4 (R94, R110). -/
def fieldUpperD (w : Word) : Reg := 1#1 ++ w.extractLsb' 4 4

/-- The register 16 + `w[3:0]` of MULS (R97, R110). -/
def fieldUpperR (w : Word) : Reg := 1#1 ++ w.extractLsb' 0 4

/-- The register 16 + `w[6:4]` of format RR3 (R98, R110). -/
def fieldMiddleD (w : Word) : Reg := 0b10#2 ++ w.extractLsb' 4 3

/-- The register 16 + `w[2:0]` of format RR3 (R98, R110). -/
def fieldMiddleR (w : Word) : Reg := 0b10#2 ++ w.extractLsb' 0 3

/-- The even register 2 * `w[7:4]` of MOVW (R97, R110). -/
def fieldEvenD (w : Word) : Reg := w.extractLsb' 4 4 ++ 0#1

/-- The even register 2 * `w[3:0]` of MOVW (R97, R110). -/
def fieldEvenR (w : Word) : Reg := w.extractLsb' 0 4 ++ 0#1

/-- The pair register 24 + 2 * `w[5:4]` of format IW (R95, R110). -/
def fieldPair (w : Word) : Reg := 0b11#2 ++ w.extractLsb' 4 2 ++ 0#1

/-- The constant `w[11:8]:w[3:0]` of format IMM8 (R94, R109). -/
def fieldK8 (w : Word) : Byte := w.extractLsb' 8 4 ++ w.extractLsb' 0 4

/-- The constant `w[7:6]:w[3:0]` of format IW (R95, R109). -/
def fieldK6 (w : Word) : BitVec 6 := w.extractLsb' 6 2 ++ w.extractLsb' 0 4

/-- The displacement `w[13]:w[11:10]:w[2:0]` of format DISP (R100, R109). -/
def fieldQ (w : Word) : BitVec 6 := w.extractLsb' 13 1 ++ w.extractLsb' 10 2 ++ w.extractLsb' 0 3

/-- The I/O address `w[10:9]:w[3:0]` of format IO (R101, R109). -/
def fieldA6 (w : Word) : BitVec 6 := w.extractLsb' 9 2 ++ w.extractLsb' 0 4

/-- The I/O address `w[7:3]` of format IOBIT (R102, R109). -/
def fieldA5 (w : Word) : BitVec 5 := w.extractLsb' 3 5

/-- The bit or flag number `w[2:0]` of formats IOBIT, RBIT and BR (R109). -/
def fieldB (w : Word) : BitVec 3 := w.extractLsb' 0 3

/-- The flag number `w[6:4]` of format SREGOP (R107). -/
def fieldS (w : Word) : BitVec 3 := w.extractLsb' 4 3

/-- The displacement `w[11:0]` of format REL12 (R103). -/
def fieldK12 (w : Word) : BitVec 12 := w.extractLsb' 0 12

/-- The displacement `w[9:3]` of format BR (R105). -/
def fieldK7 (w : Word) : BitVec 7 := w.extractLsb' 3 7

/-- The word address `w1[8:4]:w1[0]:w2` of format ABS22 (R104). -/
def fieldK22 (w w2 : Word) : PcAddr := w.extractLsb' 4 5 ++ w.extractLsb' 0 1 ++ w2

/-- Words `0000 xxxx xxxx xxxx` (R112). -/
def decodeGroup0 (w : Word) : Option Instr :=
  match (w.extractLsb' 10 2).toNat with
  | 1 => some (.cpc (fieldD w) (fieldR w))
  | 2 => some (.sbc (fieldD w) (fieldR w))
  | 3 => some (.add (fieldD w) (fieldR w))
  | _ =>
    match (w.extractLsb' 8 2).toNat with
    | 0 => if w == 0#16 then some .nop else none
    | 1 => some (.movw (fieldEvenD w) (fieldEvenR w))
    | 2 => some (.muls (fieldUpperD w) (fieldUpperR w))
    | _ =>
      match w.getLsbD 7, w.getLsbD 3 with
      | false, false => some (.mulsu (fieldMiddleD w) (fieldMiddleR w))
      | false, true => some (.fmul (fieldMiddleD w) (fieldMiddleR w))
      | true, false => some (.fmuls (fieldMiddleD w) (fieldMiddleR w))
      | true, true => some (.fmulsu (fieldMiddleD w) (fieldMiddleR w))

/-- Words `0001 xxxx xxxx xxxx` (R93, R112). -/
def decodeGroup1 (w : Word) : Option Instr :=
  match (w.extractLsb' 10 2).toNat with
  | 0 => some (.cpse (fieldD w) (fieldR w))
  | 1 => some (.cp (fieldD w) (fieldR w))
  | 2 => some (.sub (fieldD w) (fieldR w))
  | _ => some (.adc (fieldD w) (fieldR w))

/-- Words `0010 xxxx xxxx xxxx` (R93, R112). -/
def decodeGroup2 (w : Word) : Option Instr :=
  match (w.extractLsb' 10 2).toNat with
  | 0 => some (.and (fieldD w) (fieldR w))
  | 1 => some (.eor (fieldD w) (fieldR w))
  | 2 => some (.or (fieldD w) (fieldR w))
  | _ => some (.mov (fieldD w) (fieldR w))

/-- Words `10q0 qqsd dddd zqqq` (format DISP, R100). -/
def decodeDisp (w : Word) : Option Instr :=
  match w.getLsbD 9, w.getLsbD 3 with
  | false, false => some (.lddZ (fieldD w) (fieldQ w))
  | false, true => some (.lddY (fieldD w) (fieldQ w))
  | true, false => some (.stdZ (fieldQ w) (fieldD w))
  | true, true => some (.stdY (fieldQ w) (fieldD w))

/-- The load half of format LDST, `1001 000d dddd mmmm`, by mode (R99). -/
def decodeLoad (w w2 : Word) : Option Instr :=
  match (w.extractLsb' 0 4).toNat with
  | 0 => some (.lds (fieldD w) w2)
  | 1 => some (.ldZInc (fieldD w))
  | 2 => some (.ldZDec (fieldD w))
  | 4 => some (.lpmZ (fieldD w))
  | 5 => some (.lpmZInc (fieldD w))
  | 6 => some (.elpmZ (fieldD w))
  | 7 => some (.elpmZInc (fieldD w))
  | 9 => some (.ldYInc (fieldD w))
  | 10 => some (.ldYDec (fieldD w))
  | 12 => some (.ldX (fieldD w))
  | 13 => some (.ldXInc (fieldD w))
  | 14 => some (.ldXDec (fieldD w))
  | 15 => some (.pop (fieldD w))
  | _ => none

/-- The store half of format LDST, `1001 001r rrrr mmmm`, by mode (R99). -/
def decodeStore (w w2 : Word) : Option Instr :=
  match (w.extractLsb' 0 4).toNat with
  | 0 => some (.sts w2 (fieldD w))
  | 1 => some (.stZInc (fieldD w))
  | 2 => some (.stZDec (fieldD w))
  | 9 => some (.stYInc (fieldD w))
  | 10 => some (.stYDec (fieldD w))
  | 12 => some (.stX (fieldD w))
  | 13 => some (.stXInc (fieldD w))
  | 14 => some (.stXDec (fieldD w))
  | 15 => some (.push (fieldD w))
  | _ => none

/-- Words `1001 010x xxxx 1000`: format SREGOP and the fixed words ending in 1000 (R107, R108). -/
def decodeFixed8 (w : Word) : Option Instr :=
  match w.getLsbD 8, w.getLsbD 7 with
  | false, false => some (.bset (fieldS w))
  | false, true => some (.bclr (fieldS w))
  | true, _ =>
    match (w.extractLsb' 4 4).toNat with
    | 0 => some .ret
    | 1 => some .reti
    | 8 => some .sleep
    | 9 => some .brk
    | 10 => some .wdr
    | 12 => some .lpm
    | 13 => some .elpm
    | 14 => some .spm
    | _ => none

/-- Words `1001 010x xxxx 1001`: the indirect jumps and calls (R108). -/
def decodeFixed9 (w : Word) : Option Instr :=
  match (w.extractLsb' 4 5).toNat with
  | 0 => some .ijmp
  | 1 => some .eijmp
  | 16 => some .icall
  | 17 => some .eicall
  | _ => none

/-- Words `1001 010x xxxx xxxx`: formats R1, SREGOP, FIXED and ABS22, by `w[3:0]` (R96, R112). -/
def decodeGroup94 (w w2 : Word) : Option Instr :=
  match (w.extractLsb' 0 4).toNat with
  | 0 => some (.com (fieldD w))
  | 1 => some (.neg (fieldD w))
  | 2 => some (.swap (fieldD w))
  | 3 => some (.inc (fieldD w))
  | 5 => some (.asr (fieldD w))
  | 6 => some (.lsr (fieldD w))
  | 7 => some (.ror (fieldD w))
  | 8 => decodeFixed8 w
  | 9 => decodeFixed9 w
  | 10 => some (.dec (fieldD w))
  | 12 => some (.jmp (fieldK22 w w2))
  | 13 => some (.jmp (fieldK22 w w2))
  | 14 => some (.call (fieldK22 w w2))
  | 15 => some (.call (fieldK22 w w2))
  | _ => none

/-- Words `1001 10xx xxxx xxxx`: format IOBIT (R102). -/
def decodeIoBit (w : Word) : Option Instr :=
  match (w.extractLsb' 8 2).toNat with
  | 0 => some (.cbi (fieldA5 w) (fieldB w))
  | 1 => some (.sbic (fieldA5 w) (fieldB w))
  | 2 => some (.sbi (fieldA5 w) (fieldB w))
  | _ => some (.sbis (fieldA5 w) (fieldB w))

/-- Words `1001 xxxx xxxx xxxx`, by `w[11:9]` (R112). -/
def decodeGroup9 (w w2 : Word) : Option Instr :=
  match (w.extractLsb' 9 3).toNat with
  | 0 => decodeLoad w w2
  | 1 => decodeStore w w2
  | 2 => decodeGroup94 w w2
  | 3 => if w.getLsbD 8 then some (.sbiw (fieldPair w) (fieldK6 w)) else some (.adiw (fieldPair w) (fieldK6 w))
  | 4 => decodeIoBit w
  | 5 => decodeIoBit w
  | _ => some (.mul (fieldD w) (fieldR w))

/-- Words `1111 xxxx xxxx xxxx`: formats BR and RBIT (R105, R106, R112). -/
def decodeGroupF (w : Word) : Option Instr :=
  match w.getLsbD 11, w.getLsbD 3 with
  | false, _ => if w.getLsbD 10 then some (.brbc (fieldB w) (fieldK7 w)) else some (.brbs (fieldB w) (fieldK7 w))
  | true, true => none
  | true, false =>
    match (w.extractLsb' 9 2).toNat with
    | 0 => some (.bld (fieldD w) (fieldB w))
    | 1 => some (.bst (fieldD w) (fieldB w))
    | 2 => some (.sbrc (fieldD w) (fieldB w))
    | _ => some (.sbrs (fieldD w) (fieldB w))

/-- The opcode map of rule R112: the instruction whose first word is `w`, its second word, where it has one, being
`w2`. `none` is a reserved encoding (R113). -/
def decodeWords (w w2 : Word) : Option Instr :=
  match (w.extractLsb' 12 4).toNat with
  | 0 => decodeGroup0 w
  | 1 => decodeGroup1 w
  | 2 => decodeGroup2 w
  | 3 => some (.cpi (fieldUpperD w) (fieldK8 w))
  | 4 => some (.sbci (fieldUpperD w) (fieldK8 w))
  | 5 => some (.subi (fieldUpperD w) (fieldK8 w))
  | 6 => some (.ori (fieldUpperD w) (fieldK8 w))
  | 7 => some (.andi (fieldUpperD w) (fieldK8 w))
  | 8 => decodeDisp w
  | 9 => decodeGroup9 w w2
  | 10 => decodeDisp w
  | 11 => if w.getLsbD 11 then some (.ioOut (fieldA6 w) (fieldD w)) else some (.ioIn (fieldD w) (fieldA6 w))
  | 12 => some (.rjmp (fieldK12 w))
  | 13 => some (.rcall (fieldK12 w))
  | 14 => some (.ldi (fieldUpperD w) (fieldK8 w))
  | _ => decodeGroupF w

/-- Why `decode` rejects. -/
inductive DecodeReject where
  /-- The first word matches no real row of the opcode table (R113). -/
  | reserved (w : Word)
  /-- The bytes end before the instruction does. -/
  | truncated
  deriving DecidableEq, Repr

/-- The answer of `decode` once the words of the instruction are known. -/
def decoded (w w2 : Word) (rest : List Byte) : Except DecodeReject (Instr × List Byte) :=
  match decodeWords w w2 with
  | some i => .ok (i, rest)
  | none => .error (.reserved w)

/-- Decoding of bytes as they lie in program memory, each word low byte first (R67), the first word at the lowest
address (R68): the instruction and the bytes after it, or a rejection by name. -/
def decode : List Byte → Except DecodeReject (Instr × List Byte)
  | b0 :: b1 :: rest =>
    if isTwoWord (joinBytes b1 b0) then
      match rest with
      | b2 :: b3 :: rest' => decoded (joinBytes b1 b0) (joinBytes b3 b2) rest'
      | _ => .error .truncated
    else decoded (joinBytes b1 b0) 0#16 rest
  | _ => .error .truncated

/-- The bytes of words in program memory, low byte first (R67). -/
def wordBytes : List Word → List Byte
  | [] => []
  | w :: ws => lowByte w :: highByte w :: wordBytes ws

/-- The two words of an instruction whose bits, counted from bit 0 of its first word, are `w`; every bit at or above
`nbits` is 0. -/
def tableWords (nbits w : Nat) : List Word :=
  [BitVec.ofNat 16 (w % 2 ^ nbits), BitVec.ofNat 16 (w % 2 ^ nbits / 65536)]

/-- The instruction the decoder reads from an instruction whose bits are `w`, numbered as spec/opcode_table.json numbers
them, laid out as program memory holds it. -/
def decodeTableWord (nbits w : Nat) : Option Instr :=
  match decode (wordBytes (tableWords nbits w)) with
  | .ok (i, _) => some i
  | .error _ => none

/-- The real instruction a row stands for: itself, or the expansion of rule R118 for another name. -/
def Instr.expand : Instr → Instr
  | .add d r => .add d r
  | .adc d r => .adc d r
  | .adiw d k => .adiw d k
  | .sub d r => .sub d r
  | .subi d k => .subi d k
  | .sbc d r => .sbc d r
  | .sbci d k => .sbci d k
  | .sbiw d k => .sbiw d k
  | .and d r => .and d r
  | .andi d k => .andi d k
  | .or d r => .or d r
  | .ori d k => .ori d k
  | .eor d r => .eor d r
  | .com d => .com d
  | .neg d => .neg d
  | .sbr d k => .ori d k
  | .cbr d k => .andi d (~~~k)
  | .inc d => .inc d
  | .dec d => .dec d
  | .tst r => .and r r
  | .clr d => .eor d d
  | .ser d => .ldi d 0xFF#8
  | .mul d r => .mul d r
  | .muls d r => .muls d r
  | .mulsu d r => .mulsu d r
  | .fmul d r => .fmul d r
  | .fmuls d r => .fmuls d r
  | .fmulsu d r => .fmulsu d r
  | .mov d r => .mov d r
  | .movw d r => .movw d r
  | .ldi d k => .ldi d k
  | .lds d k => .lds d k
  | .ldX d => .ldX d
  | .ldY d => .lddY d 0#6
  | .ldZ d => .lddZ d 0#6
  | .ldXInc d => .ldXInc d
  | .ldYInc d => .ldYInc d
  | .ldZInc d => .ldZInc d
  | .ldXDec d => .ldXDec d
  | .ldYDec d => .ldYDec d
  | .ldZDec d => .ldZDec d
  | .lddY d q => .lddY d q
  | .lddZ d q => .lddZ d q
  | .sts k r => .sts k r
  | .stX r => .stX r
  | .stY r => .stdY 0#6 r
  | .stZ r => .stdZ 0#6 r
  | .stXInc r => .stXInc r
  | .stYInc r => .stYInc r
  | .stZInc r => .stZInc r
  | .stXDec r => .stXDec r
  | .stYDec r => .stYDec r
  | .stZDec r => .stZDec r
  | .stdY q r => .stdY q r
  | .stdZ q r => .stdZ q r
  | .lpm => .lpm
  | .lpmZ d => .lpmZ d
  | .lpmZInc d => .lpmZInc d
  | .elpm => .elpm
  | .elpmZ d => .elpmZ d
  | .elpmZInc d => .elpmZInc d
  | .spm => .spm
  | .ioIn d a => .ioIn d a
  | .ioOut a r => .ioOut a r
  | .push r => .push r
  | .pop d => .pop d
  | .brk => .brk
  | .nop => .nop
  | .sleep => .sleep
  | .wdr => .wdr
  | .rjmp k => .rjmp k
  | .ijmp => .ijmp
  | .eijmp => .eijmp
  | .jmp k => .jmp k
  | .rcall k => .rcall k
  | .icall => .icall
  | .eicall => .eicall
  | .call k => .call k
  | .ret => .ret
  | .reti => .reti
  | .cpse d r => .cpse d r
  | .cp d r => .cp d r
  | .cpc d r => .cpc d r
  | .cpi d k => .cpi d k
  | .sbrc r b => .sbrc r b
  | .sbrs r b => .sbrs r b
  | .sbic a b => .sbic a b
  | .sbis a b => .sbis a b
  | .brbs n k => .brbs n k
  | .brbc n k => .brbc n k
  | .breq k => .brbs 1#3 k
  | .brne k => .brbc 1#3 k
  | .brcs k => .brbs 0#3 k
  | .brcc k => .brbc 0#3 k
  | .brsh k => .brbc 0#3 k
  | .brlo k => .brbs 0#3 k
  | .brmi k => .brbs 2#3 k
  | .brpl k => .brbc 2#3 k
  | .brge k => .brbc 4#3 k
  | .brlt k => .brbs 4#3 k
  | .brhs k => .brbs 5#3 k
  | .brhc k => .brbc 5#3 k
  | .brts k => .brbs 6#3 k
  | .brtc k => .brbc 6#3 k
  | .brvs k => .brbs 3#3 k
  | .brvc k => .brbc 3#3 k
  | .brie k => .brbs 7#3 k
  | .brid k => .brbc 7#3 k
  | .sbi a b => .sbi a b
  | .cbi a b => .cbi a b
  | .lsl d => .add d d
  | .lsr d => .lsr d
  | .rol d => .adc d d
  | .ror d => .ror d
  | .asr d => .asr d
  | .swap d => .swap d
  | .bset n => .bset n
  | .bclr n => .bclr n
  | .bst r b => .bst r b
  | .bld d b => .bld d b
  | .sec => .bset 0#3
  | .clc => .bclr 0#3
  | .sez => .bset 1#3
  | .clz => .bclr 1#3
  | .sen => .bset 2#3
  | .cln => .bclr 2#3
  | .sev => .bset 3#3
  | .clv => .bclr 3#3
  | .ses => .bset 4#3
  | .cls => .bclr 4#3
  | .seh => .bset 5#3
  | .clh => .bclr 5#3
  | .set => .bset 6#3
  | .clt => .bclr 6#3
  | .sei => .bset 7#3
  | .cli => .bclr 7#3

/-! ### Encoding -/

/-- Format RR5, `oooo oord dddd rrrr` (R93). -/
def wordRR5 (op : BitVec 6) (d r : Reg) : Word := op ++ r.extractLsb' 4 1 ++ d ++ r.extractLsb' 0 4

/-- Format IMM8, `oooo KKKK dddd KKKK` (R94). -/
def wordIMM8 (op : BitVec 4) (d : Reg) (k : Byte) : Word :=
  op ++ k.extractLsb' 4 4 ++ d.extractLsb' 0 4 ++ k.extractLsb' 0 4

/-- Format IW, `1001 011o KKdd KKKK` (R95). -/
def wordIW (op : BitVec 1) (d : Reg) (k : BitVec 6) : Word :=
  0b1001011#7 ++ op ++ k.extractLsb' 4 2 ++ d.extractLsb' 1 2 ++ k.extractLsb' 0 4

/-- Format R1, `1001 010d dddd oooo` (R96). -/
def wordR1 (d : Reg) (op : BitVec 4) : Word := 0b1001010#7 ++ d ++ op

/-- Format RR4, `0000 00oo dddd rrrr` (R97). -/
def wordRR4 (op : BitVec 2) (d r : BitVec 4) : Word := 0#6 ++ op ++ d ++ r

/-- Format RR3, `0000 0011 oddd orrr` (R98). -/
def wordRR3 (op1 : BitVec 1) (d : Reg) (op2 : BitVec 1) (r : Reg) : Word :=
  0b00000011#8 ++ op1 ++ d.extractLsb' 0 3 ++ op2 ++ r.extractLsb' 0 3

/-- Format LDST, `1001 00sd dddd mmmm` (R99). -/
def wordLDST (s : BitVec 1) (d : Reg) (mode : BitVec 4) : Word := 0b100100#6 ++ s ++ d ++ mode

/-- Format DISP, `10q0 qqsd dddd zqqq` (R100). -/
def wordDISP (s z : BitVec 1) (d : Reg) (q : BitVec 6) : Word :=
  0b10#2 ++ q.extractLsb' 5 1 ++ 0#1 ++ q.extractLsb' 3 2 ++ s ++ d ++ z ++ q.extractLsb' 0 3

/-- Format IO, `1011 sAAd dddd AAAA` (R101). -/
def wordIO (s : BitVec 1) (d : Reg) (a : BitVec 6) : Word :=
  0b1011#4 ++ s ++ a.extractLsb' 4 2 ++ d ++ a.extractLsb' 0 4

/-- Format IOBIT, `1001 10oo AAAA Abbb` (R102). -/
def wordIOBIT (op : BitVec 2) (a : BitVec 5) (b : BitVec 3) : Word := 0b100110#6 ++ op ++ a ++ b

/-- Format REL12, `110o kkkk kkkk kkkk` (R103). -/
def wordREL12 (op : BitVec 1) (k : BitVec 12) : Word := 0b110#3 ++ op ++ k

/-- Format ABS22, first word `1001 010k kkkk 11ok` (R104). -/
def wordABS22 (op : BitVec 1) (k : PcAddr) : Word :=
  0b1001010#7 ++ k.extractLsb' 17 5 ++ 0b11#2 ++ op ++ k.extractLsb' 16 1

/-- Format BR, `1111 0okk kkkk ksss` (R105). -/
def wordBR (op : BitVec 1) (n : BitVec 3) (k : BitVec 7) : Word := 0b11110#5 ++ op ++ k ++ n

/-- Format RBIT, `1111 1ood dddd 0bbb` (R106). -/
def wordRBIT (op : BitVec 2) (d : Reg) (b : BitVec 3) : Word := 0b11111#5 ++ op ++ d ++ 0#1 ++ b

/-- Format SREGOP, `1001 0100 osss 1000` (R107). -/
def wordSREGOP (op : BitVec 1) (n : BitVec 3) : Word := 0b10010100#8 ++ op ++ n ++ 0b1000#4

/-- The first word of the instruction, from the pattern of its row (rules R93 to R108 and R118). -/
def encodeFirst : Instr → Word
  | .add d r => wordRR5 0b000011#6 d r
  | .adc d r => wordRR5 0b000111#6 d r
  | .adiw d k => wordIW 0b0#1 d k
  | .sub d r => wordRR5 0b000110#6 d r
  | .subi d k => wordIMM8 0b0101#4 d k
  | .sbc d r => wordRR5 0b000010#6 d r
  | .sbci d k => wordIMM8 0b0100#4 d k
  | .sbiw d k => wordIW 0b1#1 d k
  | .and d r => wordRR5 0b001000#6 d r
  | .andi d k => wordIMM8 0b0111#4 d k
  | .or d r => wordRR5 0b001010#6 d r
  | .ori d k => wordIMM8 0b0110#4 d k
  | .eor d r => wordRR5 0b001001#6 d r
  | .com d => wordR1 d 0b0000#4
  | .neg d => wordR1 d 0b0001#4
  | .sbr d k => wordIMM8 0b0110#4 d k
  | .cbr d k => wordIMM8 0b0111#4 d (~~~k)
  | .inc d => wordR1 d 0b0011#4
  | .dec d => wordR1 d 0b1010#4
  | .tst r => wordRR5 0b001000#6 r r
  | .clr d => wordRR5 0b001001#6 d d
  | .ser d => wordIMM8 0b1110#4 d 0xFF#8
  | .mul d r => wordRR5 0b100111#6 d r
  | .muls d r => wordRR4 0b10#2 (d.extractLsb' 0 4) (r.extractLsb' 0 4)
  | .mulsu d r => wordRR3 0b0#1 d 0b0#1 r
  | .fmul d r => wordRR3 0b0#1 d 0b1#1 r
  | .fmuls d r => wordRR3 0b1#1 d 0b0#1 r
  | .fmulsu d r => wordRR3 0b1#1 d 0b1#1 r
  | .mov d r => wordRR5 0b001011#6 d r
  | .movw d r => wordRR4 0b01#2 (d.extractLsb' 1 4) (r.extractLsb' 1 4)
  | .ldi d k => wordIMM8 0b1110#4 d k
  | .lds d _ => wordLDST 0b0#1 d 0b0000#4
  | .ldX d => wordLDST 0b0#1 d 0b1100#4
  | .ldY d => wordDISP 0#1 1#1 d 0#6
  | .ldZ d => wordDISP 0#1 0#1 d 0#6
  | .ldXInc d => wordLDST 0b0#1 d 0b1101#4
  | .ldYInc d => wordLDST 0b0#1 d 0b1001#4
  | .ldZInc d => wordLDST 0b0#1 d 0b0001#4
  | .ldXDec d => wordLDST 0b0#1 d 0b1110#4
  | .ldYDec d => wordLDST 0b0#1 d 0b1010#4
  | .ldZDec d => wordLDST 0b0#1 d 0b0010#4
  | .lddY d q => wordDISP 0b0#1 0b1#1 d q
  | .lddZ d q => wordDISP 0b0#1 0b0#1 d q
  | .sts _ r => wordLDST 0b1#1 r 0b0000#4
  | .stX r => wordLDST 0b1#1 r 0b1100#4
  | .stY r => wordDISP 1#1 1#1 r 0#6
  | .stZ r => wordDISP 1#1 0#1 r 0#6
  | .stXInc r => wordLDST 0b1#1 r 0b1101#4
  | .stYInc r => wordLDST 0b1#1 r 0b1001#4
  | .stZInc r => wordLDST 0b1#1 r 0b0001#4
  | .stXDec r => wordLDST 0b1#1 r 0b1110#4
  | .stYDec r => wordLDST 0b1#1 r 0b1010#4
  | .stZDec r => wordLDST 0b1#1 r 0b0010#4
  | .stdY q r => wordDISP 0b1#1 0b1#1 r q
  | .stdZ q r => wordDISP 0b1#1 0b0#1 r q
  | .lpm => 0b1001010111001000#16
  | .lpmZ d => wordLDST 0b0#1 d 0b0100#4
  | .lpmZInc d => wordLDST 0b0#1 d 0b0101#4
  | .elpm => 0b1001010111011000#16
  | .elpmZ d => wordLDST 0b0#1 d 0b0110#4
  | .elpmZInc d => wordLDST 0b0#1 d 0b0111#4
  | .spm => 0b1001010111101000#16
  | .ioIn d a => wordIO 0b0#1 d a
  | .ioOut a r => wordIO 0b1#1 r a
  | .push r => wordLDST 0b1#1 r 0b1111#4
  | .pop d => wordLDST 0b0#1 d 0b1111#4
  | .brk => 0b1001010110011000#16
  | .nop => 0b0000000000000000#16
  | .sleep => 0b1001010110001000#16
  | .wdr => 0b1001010110101000#16
  | .rjmp k => wordREL12 0b0#1 k
  | .ijmp => 0b1001010000001001#16
  | .eijmp => 0b1001010000011001#16
  | .jmp k => wordABS22 0b0#1 k
  | .rcall k => wordREL12 0b1#1 k
  | .icall => 0b1001010100001001#16
  | .eicall => 0b1001010100011001#16
  | .call k => wordABS22 0b1#1 k
  | .ret => 0b1001010100001000#16
  | .reti => 0b1001010100011000#16
  | .cpse d r => wordRR5 0b000100#6 d r
  | .cp d r => wordRR5 0b000101#6 d r
  | .cpc d r => wordRR5 0b000001#6 d r
  | .cpi d k => wordIMM8 0b0011#4 d k
  | .sbrc r b => wordRBIT 0b10#2 r b
  | .sbrs r b => wordRBIT 0b11#2 r b
  | .sbic a b => wordIOBIT 0b01#2 a b
  | .sbis a b => wordIOBIT 0b11#2 a b
  | .brbs n k => wordBR 0b0#1 n k
  | .brbc n k => wordBR 0b1#1 n k
  | .breq k => wordBR 0b0#1 0b001#3 k
  | .brne k => wordBR 0b1#1 0b001#3 k
  | .brcs k => wordBR 0b0#1 0b000#3 k
  | .brcc k => wordBR 0b1#1 0b000#3 k
  | .brsh k => wordBR 0b1#1 0b000#3 k
  | .brlo k => wordBR 0b0#1 0b000#3 k
  | .brmi k => wordBR 0b0#1 0b010#3 k
  | .brpl k => wordBR 0b1#1 0b010#3 k
  | .brge k => wordBR 0b1#1 0b100#3 k
  | .brlt k => wordBR 0b0#1 0b100#3 k
  | .brhs k => wordBR 0b0#1 0b101#3 k
  | .brhc k => wordBR 0b1#1 0b101#3 k
  | .brts k => wordBR 0b0#1 0b110#3 k
  | .brtc k => wordBR 0b1#1 0b110#3 k
  | .brvs k => wordBR 0b0#1 0b011#3 k
  | .brvc k => wordBR 0b1#1 0b011#3 k
  | .brie k => wordBR 0b0#1 0b111#3 k
  | .brid k => wordBR 0b1#1 0b111#3 k
  | .sbi a b => wordIOBIT 0b10#2 a b
  | .cbi a b => wordIOBIT 0b00#2 a b
  | .lsl d => wordRR5 0b000011#6 d d
  | .lsr d => wordR1 d 0b0110#4
  | .rol d => wordRR5 0b000111#6 d d
  | .ror d => wordR1 d 0b0111#4
  | .asr d => wordR1 d 0b0101#4
  | .swap d => wordR1 d 0b0010#4
  | .bset n => wordSREGOP 0b0#1 n
  | .bclr n => wordSREGOP 0b1#1 n
  | .bst r b => wordRBIT 0b01#2 r b
  | .bld d b => wordRBIT 0b00#2 d b
  | .sec => wordSREGOP 0b0#1 0b000#3
  | .clc => wordSREGOP 0b1#1 0b000#3
  | .sez => wordSREGOP 0b0#1 0b001#3
  | .clz => wordSREGOP 0b1#1 0b001#3
  | .sen => wordSREGOP 0b0#1 0b010#3
  | .cln => wordSREGOP 0b1#1 0b010#3
  | .sev => wordSREGOP 0b0#1 0b011#3
  | .clv => wordSREGOP 0b1#1 0b011#3
  | .ses => wordSREGOP 0b0#1 0b100#3
  | .cls => wordSREGOP 0b1#1 0b100#3
  | .seh => wordSREGOP 0b0#1 0b101#3
  | .clh => wordSREGOP 0b1#1 0b101#3
  | .set => wordSREGOP 0b0#1 0b110#3
  | .clt => wordSREGOP 0b1#1 0b110#3
  | .sei => wordSREGOP 0b0#1 0b111#3
  | .cli => wordSREGOP 0b1#1 0b111#3

/-- The words of an instruction, first word first (R90, R68): two for LDS, STS, JMP and CALL, else one. -/
def encode (i : Instr) : List Word :=
  match i with
  | .lds _ k => [encodeFirst i, k]
  | .sts k _ => [encodeFirst i, k]
  | .jmp k => [encodeFirst i, k.extractLsb' 0 16]
  | .call k => [encodeFirst i, k.extractLsb' 0 16]
  | _ => [encodeFirst i]

/-- The number of words of an instruction (R90). -/
def Instr.length (i : Instr) : Nat := (encode i).length

end Sys2Proof
end

