-- ==== Sys2Proof/Config.lean ====
section
/-! DEFINITION. What an implementation fixes: the parameters of spec rule R6, and the free values the spec calls draws. -/

namespace Sys2Proof

/-- `PC_BITS`: 22, or 16 on the smaller parts (R6; 92_eei_decisions.md D1). -/
inductive PcWidth where
  | w16
  | w22
  deriving DecidableEq, Repr

/-- `BREAK_BEHAVIOUR` (R6, R210). -/
inductive BreakBehaviour where
  | refuse
  | nop
  deriving DecidableEq, Repr

/-- `SLEEP_BEHAVIOUR` (R6, R212). -/
inductive SleepBehaviour where
  | refuse
  | nop
  | wait
  deriving DecidableEq, Repr

/-- `UNWRITTEN_READ`: what the read of a RAM byte that nothing has written does (R6, R47). -/
inductive UnwrittenRead where
  | fault
  | draw
  deriving DecidableEq, Repr

/-- One entry of `IRQ_SOURCES`: a name (here a number) and the vector's word address (R313, R317). -/
structure IrqSource where
  name : Nat
  vector : PcAddr
  deriving DecidableEq, Repr

/-- The parameters of rule R6 that a part may fix differently. The model holds one value of this type in
`Machine.State.cfg`; no step changes it (assumption log 3). -/
structure Config where
  /-- `PC_BITS` (R6, R34). -/
  pcWidth : PcWidth
  /-- `FLASH_WORDS`: number of implemented program words, OPEN (R6); at most 2^PC_BITS (R61, `Config.programWords`). -/
  flashWords : Nat
  /-- `DATA_TOP`: highest implemented data address, OPEN (R6, R62). -/
  dataTop : Word
  /-- The first data address that is RAM: 0x0060 up to here are further platform I/O registers, a platform
  parameter of the map of R62. -/
  ramStart : Word
  /-- `SP_RESET`, OPEN (R6, R47). -/
  spReset : Word
  /-- `RESET_VECTOR` (R6, R342). -/
  resetVector : PcAddr
  /-- `RAMPZ_MASK`: the implemented bits of RAMPZ, OPEN (R6, R41). -/
  rampzMask : Byte
  /-- `EIND_MASK`: the implemented bits of EIND, OPEN (R6, R42). -/
  eindMask : Byte
  /-- `HAS_XY` (R6, R31, R195). -/
  hasXY : Bool
  /-- `REGS_IN_DATA_SPACE` (R6, R64). -/
  regsInDataSpace : Bool
  /-- SREG is the location `SREG_IO`; false is rule R43's parameter value "none". -/
  sregInIo : Bool
  /-- `IRQ_SOURCES`, highest priority first (R6, R313). -/
  irqSources : List IrqSource
  /-- `BREAK_BEHAVIOUR` (R6, R210). -/
  breakBehaviour : BreakBehaviour
  /-- `SLEEP_BEHAVIOUR` (R6, R212). -/
  sleepBehaviour : SleepBehaviour
  /-- `UNWRITTEN_READ` (R6, R47). -/
  unwrittenRead : UnwrittenRead
  deriving DecidableEq, Repr

/-- The parameters in force at `Machine.State.reset`. Values of R6 where R6 gives one; where R6 leaves the value OPEN,
or offers an effect beside a refusal, the choice is DESIGN CHOICE (unsafe), assumption log 2, 4, 6, 9 and 10. -/
def Config.generic : Config where
  pcWidth := .w22
  flashWords := 0x400000
  dataTop := 0xFFFF#16
  ramStart := 0x0060#16
  spReset := 0xFFFF#16
  resetVector := 0#22
  rampzMask := 0xFF#8
  eindMask := 0x3F#8
  hasXY := true
  regsInDataSpace := true
  sregInIo := true
  irqSources := []
  breakBehaviour := .nop
  sleepBehaviour := .wait
  unwrittenRead := .draw

/-- `PC_BITS` as a number (R6). -/
def Config.pcBits (c : Config) : Nat :=
  match c.pcWidth with
  | .w16 => 16
  | .w22 => 22

/-- `PCBYTES`, the bytes of a return address on the stack (R69). -/
def Config.pcBytes (c : Config) : Nat :=
  match c.pcWidth with
  | .w16 => 2
  | .w22 => 3

/-- The number of program words a fetch or a load can reach: `FLASH_WORDS`, which rule R61 bounds by 2^PC_BITS (assumption
log 31). -/
def Config.programWords (c : Config) : Nat := min c.flashWords (2 ^ c.pcBits)

/-- The oracle that answers the reads of platform I/O locations (R63). No body: nothing constrains it. It is applied to the
counter `State.draws`, so that two draws need not agree (R73). FREE VALUE, safe; assumption log 12. -/
opaque Config.freeByte : Nat → Byte

/-- What the RAM byte at a data address holds before anything is written there, under `UNWRITTEN_READ` = draw (R47). No body:
nothing constrains it. It is applied to the address alone, so that a second read answers the same byte and no read changes
anything (R73). FREE VALUE; assumption log 6. -/
opaque Config.freeRam : Word → Byte

/-- `IO_BASE`: the data address of I/O location 0 (R6). -/
def ioBase : Word := 0x20#16

/-- Data address of RAMPZ, `RAMPZ_IO` + 0x20 (R41). -/
def rampzAddr : Word := 0x5B#16

/-- Data address of EIND, `EIND_IO` + 0x20 (R42). -/
def eindAddr : Word := 0x5C#16

/-- Data address of SPL, `SPL_IO` + 0x20 (R40). -/
def splAddr : Word := 0x5D#16

/-- Data address of SPH, `SPH_IO` + 0x20 (R40). -/
def sphAddr : Word := 0x5E#16

/-- Data address of SREG, `SREG_IO` + 0x20 (R43). -/
def sregAddr : Word := 0x5F#16

/-- What a byte of program memory that holds no part of the loaded program reads as: erased flash (R211, corner case,
from general knowledge). PRESUMED, unsafe; assumption log 8. -/
def erasedFlash : Byte := 0xFF#8

end Sys2Proof
end

