-- ==== Sys2Proof/Machine/State.lean ====
section
/-! DEFINITION. The state of the machine as plain data (spec 10_state.md rule R48), the reasons a step can stop (60_exceptions.md
rule R311), and the state right after reset (rules R47, R340). -/

namespace Sys2Proof.Machine

/-- A memory as (address, byte) cells; its canonical form is `Memory.wf` (Machine/Memory.lean). -/
abbrev Memory := List Host.Cell

/-- One entry of the event history (R48): what the platform can see. -/
inductive Event where
  /-- A read of the platform location at a data address, and the byte it answered (R63, R73). -/
  | ioRead (address : Word) (value : Byte)
  /-- A write of a byte to the platform location at a data address (R63, R73). -/
  | ioWrite (address : Word) (value : Byte)
  /-- WDR executed at a program address (R213). -/
  | watchdogReset (pc : PcAddr)
  /-- An interrupt of the named source was taken (R316). -/
  | interruptTaken (name : Nat)
  deriving DecidableEq, Repr

/-- The state of the machine. -/
structure State where
  /-- The parameters (R6): read-only, no step changes them (assumption log 3). -/
  cfg : Config
  /-- R0 to R31 (R30). -/
  regs : Vector Byte 32
  /-- The program counter, a word address (R34). -/
  pc : PcAddr
  /-- SREG, bit 7 to bit 0: I T H S V N Z C (R37). -/
  sreg : Byte
  /-- The stack pointer (R40). -/
  sp : Word
  /-- RAMPZ (R41). -/
  rampz : Byte
  /-- EIND (R42). -/
  eind : Byte
  /-- The RAM bytes that have been written (R47, R62). -/
  ram : Memory
  /-- Program memory by byte address (R61, R67). -/
  flash : Memory
  /-- The one-instruction interrupt inhibit (R46 (b), R318). -/
  inhibit : Bool
  /-- The core is halted by SLEEP (R46 (c), R212). -/
  sleeping : Bool
  /-- The sets of requesting sources the platform presents at the coming instruction boundaries, this boundary's
  first; past the list's end no source requests (R46 (a), R313; assumption log 13). -/
  requests : List (List Nat)
  /-- How many draws have been taken: the argument of the next one (the model's own field; assumption log 12). -/
  draws : Nat
  /-- The event history, oldest first (R48; assumption log 22). -/
  events : List Event
  deriving DecidableEq, Repr

/-- Why a step faults (R311). A fault leaves no state: the machine stays as before the instruction. -/
inductive Fault where
  /-- Raised by the indirect loads and stores and by LPM, ELPM with a destination whose data register is one of the
  pointer's two registers: undefined by note 7 (R170). Safe: the model stops where the chip does something. -/
  | pointerAsOperand
  /-- Raised by any data access above `DATA_TOP` (R75). Safe. -/
  | dataOutside (address : Word)
  /-- Raised by a fetch, by the read of the following word of a skip that is taken, by LPM and by ELPM, at a word address at
  or above `FLASH_WORDS` (R36, R75, R221). Safe. -/
  | programOutside (wordAddress : Nat)
  /-- Raised by the read of a RAM byte nothing has written, when `UNWRITTEN_READ` = fault (R47). Safe. -/
  | unwrittenRead (address : Word)
  deriving DecidableEq, Repr

/-- Why a step is refused (R311), or has no next state because the run is over (R212). -/
inductive Refusal where
  /-- Raised by exec's own arm for an instruction that has no meaning yet; no arm does. Safe. -/
  | notModelled (mnemonic : String)
  /-- Raised by the step when the fetched word matches no row of the opcode table (R113). Safe. -/
  | reservedEncoding (w : Word) (pc : PcAddr)
  /-- Raised by BREAK when `BREAK_BEHAVIOUR` = refuse (R210). Safe. -/
  | breakRefused
  /-- Raised by SLEEP when `SLEEP_BEHAVIOUR` = refuse (R212). Safe. -/
  | sleepRefused
  /-- Raised by SPM always (R190). Safe. -/
  | spmRefused
  /-- Raised by ELPM Rd,Z+ when Z = 0xFFFF (R189). Safe. -/
  | elpmCarry
  /-- Raised by the X and Y forms of LD, ST, LDD, STD when `HAS_XY` = false (R195). Safe. -/
  | pointerXYAbsent
  /-- Raised by a data access below 0x20 when `REGS_IN_DATA_SPACE` = false (R64). Safe. -/
  | dataBelow0x20
  /-- Raised by the step of a sleeping core that no interrupt can wake any more: the stuck wait, which is the end of the run
  and neither a fault nor the refusal of an instruction (R212; assumption log 10). Safe. -/
  | waitNeverEnds
  deriving DecidableEq, Repr

/-- The state right after reset, for given parameters and a given loaded program (R47, R340). The registers' zero is
DESIGN CHOICE, unsafe, assumption log 1. -/
def State.resetWith (cfg : Config) (program : Memory) : State where
  cfg := cfg
  regs := Vector.replicate 32 0#8
  pc := cfg.resetVector
  sreg := 0#8
  sp := cfg.spReset
  rampz := 0#8
  eind := 0#8
  ram := []
  flash := program
  inhibit := false
  sleeping := false
  requests := []
  draws := 0
  events := []

/-- The machine right after reset with the parameters `Config.generic` and no program loaded (R47, R340). -/
def State.reset : State := State.resetWith Config.generic []

end Sys2Proof.Machine
end

