-- ==== Sys2Proof/Machine/Memory.lean ====
section
/-! DEFINITION. Memories as lists of cells in one canonical form. `blank` is what an unlisted address reads as: `none` for
RAM (nothing was written there, R47), the erased byte for program memory. -/

namespace Sys2Proof.Machine

/-- The first cell listed at an address. -/
def Memory.find : Memory → Nat → Option Byte
  | [], _ => none
  | (k, v) :: m, a => if k = a then some v else Memory.find m a

/-- List a byte at an address, keeping rising order. -/
def Memory.put : Memory → Nat → Byte → Memory
  | [], a, v => [(a, v)]
  | (k, u) :: m, a, v =>
    if a < k then (a, v) :: (k, u) :: m
    else if a = k then (a, v) :: m
    else (k, u) :: Memory.put m a v

/-- Unlist an address. -/
def Memory.remove (m : Memory) (a : Nat) : Memory := m.filter (fun c => c.1 != a)

/-- What an address reads as. -/
def Memory.read (blank : Option Byte) (m : Memory) (a : Nat) : Option Byte :=
  match Memory.find m a with
  | some v => some v
  | none => blank

/-- Write a byte: a byte equal to what an unlisted address reads as is not listed. -/
def Memory.write (blank : Option Byte) (m : Memory) (a : Nat) (v : Byte) : Memory :=
  if blank = some v then Memory.remove m a else Memory.put m a v

/-- The canonical form: addresses strictly rising, and no cell equal to what an unlisted address reads as. -/
abbrev Memory.wf (blank : Option Byte) (m : Memory) : Prop :=
  m.Pairwise (fun c d => c.1 < d.1) ∧ ∀ c ∈ m, blank ≠ some c.2

/-- What an unlisted RAM address reads as: nothing was written there (R47). -/
def ramBlank : Option Byte := none

/-- What an unlisted byte of program memory reads as (assumption log 8). -/
def flashBlank : Option Byte := some erasedFlash

end Sys2Proof.Machine
end

