-- ==== Sys2Proof/Machine/Ops.lean ====
section
/-! DEFINITION. The named operations over registers, program memory, data memory, the stack and the interrupt mechanism
(spec rules R11 to R13, R35, R36, R60 to R75, R220, R221, R313 to R319). -/

namespace Sys2Proof.Machine

/-- An outcome that carries any data: the state, or a value read together with the state after the read. -/
abbrev Result (α : Type) := Host.Outcome α Fault Refusal

/-- Go on with `f` unless `x` stopped. -/
def andThen {α β : Type} (x : Result α) (f : α → Result β) : Result β :=
  match x with
  | .next a => f a
  | .fault r => .fault r
  | .refused r => .refused r

/-! ### General registers (R11, R30, R31) -/

/-- `R[r]` (R11). -/
def State.reg (s : State) (r : Reg) : Byte := s.regs[r.toNat]'r.isLt

/-- `R[r] <- v` (R11). -/
def State.setReg (s : State) (r : Reg) (v : Byte) : State :=
  { s with regs := s.regs.set r.toNat v r.isLt }

/-- `pair(r)`, that is `R[r+1]:R[r]` (R11, R31). -/
def State.pair (s : State) (r : Reg) : Word := joinBytes (s.reg (r + 1#5)) (s.reg r)

/-- `pair(r) <- v`: the low byte to R[r], the high byte to R[r+1] (R11). -/
def State.setPair (s : State) (r : Reg) (v : Word) : State :=
  (s.setReg r (lowByte v)).setReg (r + 1#5) (highByte v)

/-- X, Y and Z (R31). -/
inductive Pointer where
  | x
  | y
  | z
  deriving DecidableEq, Repr

/-- The low register of a pointer: 26, 28 or 30 (R170). -/
def Pointer.lo : Pointer → Reg
  | .x => 26#5
  | .y => 28#5
  | .z => 30#5

/-- The value of a pointer register pair (R11, R31). -/
def State.pointer (s : State) (p : Pointer) : Word := s.pair p.lo

/-- Z, that is R31:R30 (R11). -/
def State.z (s : State) : Word := s.pointer .z

/-! ### The program counter (R34 to R36) -/

/-- Reduction modulo 2^PC_BITS (R36). -/
def wrapPc (c : Config) (v : PcAddr) : PcAddr :=
  match c.pcWidth with
  | .w22 => v
  | .w16 => v &&& 0xFFFF#22

/-- `pc <- v`, modulo 2^PC_BITS (R11, R36). -/
def State.setPc (s : State) (v : PcAddr) : State := { s with pc := wrapPc s.cfg v }

/-- `pc <- pc + n` (R35). -/
def State.advance (s : State) (n : PcAddr) : State := s.setPc (s.pc + n)

/-- The return address of a call that is `n` words long (R220). -/
def State.returnAddress (s : State) (n : PcAddr) : PcAddr := wrapPc s.cfg (s.pc + n)

/-! ### SREG and the other registers of the CPU -/

/-- Write SREG without a look at I: for results that leave I alone or clear it. -/
def State.setSreg (s : State) (v : Byte) : State := { s with sreg := v }

/-- Write SREG where I may go from 0 to 1: that change sets the one-instruction inhibit (R318). -/
def State.writeSreg (s : State) (v : Byte) : State :=
  { s with sreg := v, inhibit := s.inhibit || (!s.sreg.getLsbD 7 && v.getLsbD 7) }

/-- `SP <- v` (R40). -/
def State.setSp (s : State) (v : Word) : State := { s with sp := v }

/-- Write RAMPZ: unimplemented bits ignore writes (R41). -/
def State.setRampz (s : State) (v : Byte) : State := { s with rampz := v &&& s.cfg.rampzMask }

/-- Write EIND: unimplemented bits ignore writes (R42). -/
def State.setEind (s : State) (v : Byte) : State := { s with eind := v &&& s.cfg.eindMask }

/-- Write a RAM byte. -/
def State.setRam (s : State) (a : Word) (v : Byte) : State :=
  { s with ram := Memory.write ramBlank s.ram a.toNat v }

/-- Append to the event history (R48). -/
def State.record (s : State) (e : Event) : State := { s with events := s.events ++ [e] }

/-- Take one draw of the oracle: the byte is `Config.freeByte s.draws` (R63). -/
def State.drawn (s : State) : State := { s with draws := s.draws + 1 }

/-! ### Program memory (R61, R67, R68) -/

/-- One byte of program memory, by byte address, inside or outside the implemented part. -/
def State.flashByte (s : State) (ba : Nat) : Byte := (Memory.read flashBlank s.flash ba).getD erasedFlash

/-- `ProgWord(wa)`: low byte at 2·wa, high byte at 2·wa + 1 (R12, R67), a fault at or above `FLASH_WORDS` (R75), which is
at most 2^PC_BITS (R61). -/
def progWord (s : State) (wa : Nat) : Result Word :=
  if wa < s.cfg.programWords then .next (joinBytes (s.flashByte (2 * wa + 1)) (s.flashByte (2 * wa)))
  else .fault (.programOutside wa)

/-- `ProgByte(ba)`: bit 0 of the byte address selects the low (0) or the high (1) byte of word `ba >> 1` (R67). -/
def progByte (s : State) (ba : Nat) : Result Byte :=
  andThen (progWord s (ba / 2)) fun w => .next (if ba % 2 = 0 then lowByte w else highByte w)

/-- Load a word into program memory from outside the machine: the loader's write, no instruction's. -/
def State.loadWord (s : State) (wa : Nat) (w : Word) : State :=
  { s with
    flash := Memory.write flashBlank (Memory.write flashBlank s.flash (2 * wa) (lowByte w)) (2 * wa + 1) (highByte w) }

/-! ### Data memory (R62 to R64, R75) -/

/-- What lies at a data address (the map of R62). -/
inductive Place where
  /-- Above `DATA_TOP`. -/
  | outside
  /-- A general register, in the window 0x0000 to 0x001F. -/
  | register (r : Reg)
  /-- The window 0x0000 to 0x001F when it is not the register file. -/
  | noWindow
  | rampz
  | eind
  | spl
  | sph
  | sreg
  /-- A platform I/O location (R63). -/
  | platform
  | ram
  deriving DecidableEq, Repr

/-- The data address map of R62, the bound of R75 first, then the register window of R64 (assumption log 7). -/
def placeOf (c : Config) (a : Word) : Place :=
  if c.dataTop < a then .outside
  else if a < ioBase then
    if c.regsInDataSpace then .register (a.extractLsb' 0 5) else .noWindow
  else if a = rampzAddr then .rampz
  else if a = eindAddr then .eind
  else if a = splAddr then .spl
  else if a = sphAddr then .sph
  else if a = sregAddr then
    if c.sregInIo then .sreg else .platform
  else if a < 0x60#16 then .platform
  else if a < c.ramStart then .platform
  else .ram

/-- The read of a platform location: a draw, recorded (R63, R73). -/
def readPlatform (s : State) (a : Word) : Byte × State :=
  (Config.freeByte s.draws, (s.drawn).record (.ioRead a (Config.freeByte s.draws)))

/-- The read of a RAM byte: what was written there last, else what `UNWRITTEN_READ` says (R47). It changes nothing and is
idempotent (R73; assumption log 6). -/
def readRam (s : State) (a : Word) : Result (Byte × State) :=
  match Memory.read ramBlank s.ram a.toNat with
  | some v => .next (v, s)
  | none =>
    match s.cfg.unwrittenRead with
    | .fault => .fault (.unwrittenRead a)
    | .draw => .next (Config.freeRam a, s)

/-- `MemRead(a, 1)` (R12, R62). Both its stops, the bound of R75 and the absent register window of R64, are outcomes of this
access, met in the access's turn (R321; that R64's refusal is one of them is the model's choice, assumption log 30). -/
def memRead (s : State) (a : Word) : Result (Byte × State) :=
  match placeOf s.cfg a with
  | .outside => .fault (.dataOutside a)
  | .register r => .next (s.reg r, s)
  | .noWindow => .refused .dataBelow0x20
  | .rampz => .next (s.rampz, s)
  | .eind => .next (s.eind, s)
  | .spl => .next (lowByte s.sp, s)
  | .sph => .next (highByte s.sp, s)
  | .sreg => .next (s.sreg, s)
  | .platform => .next (readPlatform s a)
  | .ram => readRam s a

/-- `MemWrite(a, 1, v)` (R12, R62). Both its stops are outcomes of this access, as those of `memRead` (R321; assumption
log 30). -/
def memWrite (s : State) (a : Word) (v : Byte) : Result State :=
  match placeOf s.cfg a with
  | .outside => .fault (.dataOutside a)
  | .register r => .next (s.setReg r v)
  | .noWindow => .refused .dataBelow0x20
  | .rampz => .next (s.setRampz v)
  | .eind => .next (s.setEind v)
  | .spl => .next (s.setSp (joinBytes (highByte s.sp) v))
  | .sph => .next (s.setSp (joinBytes v (lowByte s.sp)))
  | .sreg => .next (s.writeSreg v)
  | .platform => .next (s.record (.ioWrite a v))
  | .ram => .next (s.setRam a v)

/-! ### The stack (R13, R69) -/

/-- `Push8(v)`: store at SP, then decrement SP (R13; assumption log 17). -/
def push8 (s : State) (v : Byte) : Result State :=
  andThen (memWrite s s.sp v) fun s1 => .next (s1.setSp (s1.sp - 1#16))

/-- `Pop8()`: increment SP, then read at SP (R13). -/
def pop8 (s : State) : Result (Byte × State) :=
  memRead (s.setSp (s.sp + 1#16)) (s.sp + 1#16)

/-- `PushPC(v)`: `PCBYTES` bytes, the least significant first (R69). -/
def pushPc (s : State) (v : PcAddr) : Result State :=
  andThen (push8 s (v.extractLsb' 0 8)) fun s1 =>
  andThen (push8 s1 (v.extractLsb' 8 8)) fun s2 =>
  match s.cfg.pcWidth with
  | .w16 => .next s2
  | .w22 => push8 s2 ((v.extractLsb' 16 6).setWidth 8)

/-- The most significant byte `PopPC` reads: one more byte when `PCBYTES` = 3, else 0 (R69). -/
def popTop (s : State) : Result (Byte × State) :=
  match s.cfg.pcWidth with
  | .w16 => .next (0#8, s)
  | .w22 => pop8 s

/-- `PopPC()`: the bytes in the order opposite to `PushPC`, reduced modulo 2^PC_BITS (R69). -/
def popPc (s : State) : Result (PcAddr × State) :=
  andThen (popTop s) fun h =>
  andThen (pop8 h.2) fun m =>
  andThen (pop8 m.2) fun l =>
  .next (wrapPc s.cfg (h.1.extractLsb' 0 6 ++ m.1 ++ l.1), l.2)

/-! ### Interrupts (R313 to R319) -/

/-- The requests presented at this boundary (R313). -/
def State.presented (s : State) : List Nat := s.requests.headD []

/-- Pass this boundary: the next set is presented at the next one (R313; assumption log 13). -/
def State.passBoundary (s : State) : State := { s with requests := s.requests.tail }

/-- The interrupt taken at this boundary: none unless I = 1 and the inhibit is clear; else the first source of
`IRQ_SOURCES` that requests (R314, R315, R321). -/
def pendingInterrupt (s : State) : Option IrqSource :=
  if s.sreg.getLsbD 7 && !s.inhibit then s.cfg.irqSources.find? (fun src => s.presented.contains src.name)
  else none

/-- An interrupt can still end the wait of a sleeping core: interrupts are enabled and not inhibited, and a set of requests
of this or a coming boundary names a source of `IRQ_SOURCES` (R212, R314, R328). -/
def State.canWake (s : State) : Bool :=
  s.sreg.getLsbD 7 && !s.inhibit &&
    s.requests.any (fun requesting => s.cfg.irqSources.any (fun src => requesting.contains src.name))

/-- `TakeInterrupt(src)`, the one exception entry of this hardware: push pc, clear I, go to the vector, record the
event; a sleeping core wakes (R316, R328). -/
def takeInterrupt (src : IrqSource) (s : State) : Result State :=
  andThen (pushPc s s.pc) fun s1 =>
  .next ((({ s1 with sreg := s1.sreg &&& 0x7F#8, sleeping := false } : State).setPc src.vector).record
    (.interruptTaken src.name))

/-- The return from interrupt: pop pc, set I, with the inhibit if I was 0 (R231, R319). -/
def returnFromInterrupt (s : State) : Result State :=
  andThen (popPc s) fun p => .next ((p.2.setPc p.1).writeSreg (p.2.sreg ||| 0x80#8))

/-! ### Skips (R221) -/

/-- `Skip(cond)`: past the whole next instruction, one word or two, when `cond` holds (R221). -/
def skip (cond : Bool) (s : State) : Result State :=
  if cond then
    andThen (progWord s (wrapPc s.cfg (s.pc + 1#22)).toNat) fun n =>
    .next (s.advance (if isTwoWord n then 3#22 else 2#22))
  else .next (s.advance 1#22)

/-- Fetch the words of the instruction at pc: the second only for a two-word instruction, read as 0 otherwise
(R12, R91). -/
def fetch (s : State) : Result (Word × Word) :=
  andThen (progWord s s.pc.toNat) fun w =>
  if isTwoWord w then
    andThen (progWord s (wrapPc s.cfg (s.pc + 1#22)).toNat) fun w2 => .next (w, w2)
  else .next (w, 0#16)

end Sys2Proof.Machine
end

