-- ==== Sys2Proof/Machine/Operands.lean ====
section
/-! DEFINITION. Operand forms: bits of a byte, I/O addresses, relative targets, the pointer forms of LD, ST, LDD, STD,
the program-memory forms of LPM and ELPM (spec rules R101, R102, R109, R170, R175 to R189, R195, R196). -/

namespace Sys2Proof.Machine

/-- Bit `b` of a byte, `v[b]` (R7). -/
def bitOf (v : Byte) (b : BitVec 3) : Bool := v.getLsbD b.toNat

/-- The byte `v` with bit `b` made `x`, the other seven kept (R270, R271, R278 to R281). -/
def withBit (v : Byte) (b : BitVec 3) (x : Bool) : Byte :=
  if x then v ||| (1#8 <<< b.toNat) else v &&& ~~~(1#8 <<< b.toNat)

/-- The data address A + 0x20 of the I/O address of IN and OUT (R12, R101). -/
def ioAddress (a : BitVec 6) : Word := a.setWidth 16 + ioBase

/-- The data address A + 0x20 of the I/O address of SBI, CBI, SBIC and SBIS (R12, R102). -/
def ioBitAddress (a : BitVec 5) : Word := a.setWidth 16 + ioBase

/-- `pc + 1 + signed(k, 12)` (R109, R222). -/
def State.target12 (s : State) (k : BitVec 12) : PcAddr := s.pc + 1#22 + k.signExtend 22

/-- `pc + 1 + signed(k, 7)` (R109, R240). -/
def State.target7 (s : State) (k : BitVec 7) : PcAddr := s.pc + 1#22 + k.signExtend 22

/-- `EIND[5:0]:Z` (R224). -/
def State.extendedZ (s : State) : PcAddr := s.eind.extractLsb' 0 6 ++ s.z

/-- `zext_22(Z)` (R223). -/
def State.plainZ (s : State) : PcAddr := s.z.setWidth 22

/-- The 24-bit program byte address `RAMPZ:Z` (R187). -/
def State.rampzZ (s : State) : Nat := (s.rampz ++ s.z).toNat

/-- The register is one of the two of the pointer: the undefined case of note 7 (R170). -/
def Pointer.holds (p : Pointer) (r : Reg) : Bool := r == p.lo || r == p.lo + 1#5

/-- The checks before an indirect access through `p` with data register `r`: X and Y on a Z-only core (R195), then note 7
(R170), in the order of R321. The refusal of an address below 0x20 (R64) is none of them: it comes with the access, after
note 7 (DEDUCED, assumption log 30). -/
def checkPointer (p : Pointer) (r : Reg) (s : State) : Result State :=
  if !s.cfg.hasXY && p != .z then .refused .pointerXYAbsent
  else if p.holds r then .fault .pointerAsOperand
  else .next s

/-- `R[d] <- MemRead(a, 1)`. -/
def loadByte (d : Reg) (a : Word) (s : State) : Result State :=
  andThen (memRead s a) fun v => .next (v.2.setReg d v.1)

/-- The plain form and the form with displacement: address pointer + q modulo 2^16, pointer unchanged (R175, R178). -/
def loadDisplaced (p : Pointer) (d : Reg) (q : BitVec 6) (s : State) : Result State :=
  andThen (checkPointer p d s) fun s1 =>
  andThen (loadByte d (s1.pointer p + q.setWidth 16) s1) fun s2 => .next (s2.advance 1#22)

/-- The post-increment form: access at the pointer, then pointer + 1 (R176). -/
def loadIncrement (p : Pointer) (d : Reg) (s : State) : Result State :=
  andThen (checkPointer p d s) fun s1 =>
  andThen (loadByte d (s1.pointer p) s1) fun s2 =>
  .next ((s2.setPair p.lo (s1.pointer p + 1#16)).advance 1#22)

/-- The pre-decrement form: pointer - 1, then access at the new pointer (R177). -/
def loadDecrement (p : Pointer) (d : Reg) (s : State) : Result State :=
  andThen (checkPointer p d s) fun s1 =>
  andThen (loadByte d (s1.pointer p - 1#16) (s1.setPair p.lo (s1.pointer p - 1#16))) fun s2 =>
  .next (s2.advance 1#22)

/-- The plain form and the form with displacement of a store (R180, R183). -/
def storeDisplaced (p : Pointer) (q : BitVec 6) (r : Reg) (s : State) : Result State :=
  andThen (checkPointer p r s) fun s1 =>
  andThen (memWrite s1 (s1.pointer p + q.setWidth 16) (s1.reg r)) fun s2 => .next (s2.advance 1#22)

/-- The post-increment form of a store: the pointer becomes its value at the start plus 1, even where the store landed on
it (R181, 92_eei_decisions.md D9). -/
def storeIncrement (p : Pointer) (r : Reg) (s : State) : Result State :=
  andThen (checkPointer p r s) fun s1 =>
  andThen (memWrite s1 (s1.pointer p) (s1.reg r)) fun s2 =>
  .next ((s2.setPair p.lo (s1.pointer p + 1#16)).advance 1#22)

/-- The pre-decrement form of a store (R182). -/
def storeDecrement (p : Pointer) (r : Reg) (s : State) : Result State :=
  andThen (checkPointer p r s) fun s1 =>
  andThen (memWrite (s1.setPair p.lo (s1.pointer p - 1#16)) (s1.pointer p - 1#16) (s1.reg r)) fun s2 =>
  .next (s2.advance 1#22)

/-- `R[d] <- ProgByte(ba)`; `pc <- pc + 1` (R184 to R188). -/
def loadProgram (d : Reg) (ba : Nat) (s : State) : Result State :=
  andThen (progByte s ba) fun v => .next ((s.setReg d v).advance 1#22)

/-- `R[d] <- ProgByte(ba)`; then `Z <- Z + 1`; `pc <- pc + 1` (R186, R189). -/
def loadProgramIncrement (d : Reg) (ba : Nat) (s : State) : Result State :=
  andThen (progByte s ba) fun v =>
  .next (((s.setReg d v).setPair Pointer.z.lo (s.z + 1#16)).advance 1#22)

end Sys2Proof.Machine
end

