-- ==== Sys2Proof/Machine/Flags.lean ====
section
/-! DEFINITION. The flags of SREG and how each instruction class computes them (spec rules R37, R38, R130 to R133, R147, R148,
R151, R152, R156 to R161, R273, R275, R276). -/

namespace Sys2Proof.Machine

/-- SREG from its eight flags, bit 7 to bit 0: I T H S V N Z C (R37). -/
def packSreg (i t h s v n z c : Bool) : Byte :=
  BitVec.ofBool i ++ BitVec.ofBool t ++ BitVec.ofBool h ++ BitVec.ofBool s ++
    BitVec.ofBool v ++ BitVec.ofBool n ++ BitVec.ofBool z ++ BitVec.ofBool c

/-- SREG.C. -/
def State.flagC (s : State) : Bool := s.sreg.getLsbD 0
/-- SREG.Z. -/
def State.flagZ (s : State) : Bool := s.sreg.getLsbD 1
/-- SREG.N. -/
def State.flagN (s : State) : Bool := s.sreg.getLsbD 2
/-- SREG.V. -/
def State.flagV (s : State) : Bool := s.sreg.getLsbD 3
/-- SREG.S. -/
def State.flagS (s : State) : Bool := s.sreg.getLsbD 4
/-- SREG.H. -/
def State.flagH (s : State) : Bool := s.sreg.getLsbD 5
/-- SREG.T. -/
def State.flagT (s : State) : Bool := s.sreg.getLsbD 6
/-- SREG.I. -/
def State.flagI (s : State) : Bool := s.sreg.getLsbD 7

/-- The values an operation computes for H, V, N, Z, C; S is always N xor V (R130 to R133). -/
structure FlagValues where
  h : Bool
  v : Bool
  n : Bool
  z : Bool
  c : Bool
  deriving DecidableEq, Repr

/-- Write H, S, V, N, Z, C; I and T are kept (R130, R131). -/
def State.setHSVNZC (s : State) (f : FlagValues) : State :=
  s.setSreg (packSreg s.flagI s.flagT f.h (f.n ^^ f.v) f.v f.n f.z f.c)

/-- Write S, V, N, Z, C; I, T and H are kept (R133, R147, R273). -/
def State.setSVNZC (s : State) (f : FlagValues) : State :=
  s.setSreg (packSreg s.flagI s.flagT s.flagH (f.n ^^ f.v) f.v f.n f.z f.c)

/-- Write S, V, N, Z; I, T, H and C are kept (R132, R151, R152). -/
def State.setSVNZ (s : State) (v n z : Bool) : State :=
  s.setSreg (packSreg s.flagI s.flagT s.flagH (n ^^ v) v n z s.flagC)

/-- Write Z and C; the other six are kept (R156 to R161). -/
def State.setZC (s : State) (z c : Bool) : State :=
  s.setSreg (packSreg s.flagI s.flagT s.flagH s.flagS s.flagV s.flagN z c)

/-- Bit 7 of a byte. -/
def bit7 (v : Byte) : Bool := v.getLsbD 7

/-- The sum of `AddFlags(a, b, cin)` (R130). -/
def addResult (a b : Byte) (cin : Bool) : Byte := BitVec.ofNat 8 (a.toNat + b.toNat + cin.toNat)

/-- The flags of `AddFlags(a, b, cin)` (R130). -/
def addFlags (a b : Byte) (cin : Bool) : FlagValues :=
  let res := addResult a b cin
  { h := decide (16 ≤ a.toNat % 16 + b.toNat % 16 + cin.toNat)
    v := (bit7 a && bit7 b && !bit7 res) || (!bit7 a && !bit7 b && bit7 res)
    n := bit7 res
    z := res == 0#8
    c := decide (256 ≤ a.toNat + b.toNat + cin.toNat) }

/-- The difference of `SubFlags(a, b, cin, _)`: (a - b - cin) mod 256 (R131). -/
def subResult (a b : Byte) (cin : Bool) : Byte := a - b - BitVec.ofNat 8 cin.toNat

/-- The flags of `SubFlags(a, b, cin, keepZ)`; `oldZ` is SREG.Z before, used when keepZ is true (R131). -/
def subFlags (a b : Byte) (cin keepZ oldZ : Bool) : FlagValues :=
  let res := subResult a b cin
  { h := decide (a.toNat % 16 < b.toNat % 16 + cin.toNat)
    v := (bit7 a && !bit7 b && !bit7 res) || (!bit7 a && bit7 b && bit7 res)
    n := bit7 res
    z := res == 0#8 && (!keepZ || oldZ)
    c := decide (a.toNat < b.toNat + cin.toNat) }

/-- `LogicFlags(res)` (R132). -/
def State.logicFlags (s : State) (res : Byte) : State := s.setSVNZ false (bit7 res) (res == 0#8)

/-- The flags of `WordFlags(old, res, false)`, for ADIW (R133). -/
def addWordFlags (old res : Word) : FlagValues :=
  { h := false
    v := !old.getLsbD 15 && res.getLsbD 15
    n := res.getLsbD 15
    z := res == 0#16
    c := old.getLsbD 15 && !res.getLsbD 15 }

/-- The flags of `WordFlags(old, res, true)`, for SBIW (R133). -/
def subWordFlags (old res : Word) : FlagValues :=
  { h := false
    v := old.getLsbD 15 && !res.getLsbD 15
    n := res.getLsbD 15
    z := res == 0#16
    c := res.getLsbD 15 && !old.getLsbD 15 }

/-- The flags of LSR, ROR and ASR from the byte before and the result: C is the bit shifted out, V = N xor C (R273, R275,
R276). -/
def shiftRightFlags (old res : Byte) : FlagValues :=
  { h := false
    v := bit7 res ^^ old.getLsbD 0
    n := bit7 res
    z := res == 0#8
    c := old.getLsbD 0 }

/-- The 16-bit product of two unsigned bytes (R156). -/
def mulUnsigned (a b : Byte) : Word := a.setWidth 16 * b.setWidth 16

/-- The 16-bit product of two signed bytes (R157). -/
def mulSigned (a b : Byte) : Word := a.signExtend 16 * b.signExtend 16

/-- The 16-bit product of a signed and an unsigned byte, modulo 2^16 (R158). -/
def mulSignedUnsigned (a b : Byte) : Word := a.signExtend 16 * b.setWidth 16

end Sys2Proof.Machine
end

