-- ==== Sys2Proof/Machine/Arith.lean ====
section
/-! DEFINITION. The meanings of the arithmetic and logic instructions (spec 40_arithmetic_logic.md, rules R134 to R161). -/

namespace Sys2Proof.Machine

/-! ### Shared operations -/

/-- `R[d] <- AddFlags(a, b, cin)`; `pc <- pc + 1` (R130). -/
def addInto (d : Reg) (a b : Byte) (cin : Bool) (s : State) : Result State :=
  .next (((s.setReg d (addResult a b cin)).setHSVNZC (addFlags a b cin)).advance 1#22)

/-- `R[d] <- SubFlags(a, b, cin, keepZ)`; `pc <- pc + 1` (R131). -/
def subInto (d : Reg) (a b : Byte) (cin keepZ : Bool) (s : State) : Result State :=
  .next (((s.setReg d (subResult a b cin)).setHSVNZC (subFlags a b cin keepZ s.flagZ)).advance 1#22)

/-- `R[d] <- res`; `LogicFlags(res)`; `pc <- pc + 1` (R132). -/
def logicInto (d : Reg) (res : Byte) (s : State) : Result State :=
  .next (((s.setReg d res).logicFlags res).advance 1#22)

/-- `pair(0) <- p`; C is bit 15 of the product; Z from the stored result; `pc <- pc + 1` (R156 to R158). -/
def productInto (p : Word) (s : State) : Result State :=
  .next (((s.setPair 0#5 p).setZC (p == 0#16) (p.getLsbD 15)).advance 1#22)

/-- `pair(0) <- p << 1`; C is bit 15 of the product before the shift; Z from the result after it (R159 to R161). -/
def fractionInto (p : Word) (s : State) : Result State :=
  .next (((s.setPair 0#5 (p <<< 1)).setZC (p <<< 1 == 0#16) (p.getLsbD 15)).advance 1#22)

/-! ### Additions and subtractions -/

/-- ADD Rd,Rr (R134). -/
def execAdd (d r : Reg) (s : State) : Result State := addInto d (s.reg d) (s.reg r) false s

/-- ADC Rd,Rr (R135). -/
def execAdc (d r : Reg) (s : State) : Result State := addInto d (s.reg d) (s.reg r) s.flagC s

/-- ADIW Rd,K (R136). -/
def execAdiw (d : Reg) (k : BitVec 6) (s : State) : Result State :=
  let old := s.pair d
  let res := old + k.setWidth 16
  .next (((s.setPair d res).setSVNZC (addWordFlags old res)).advance 1#22)

/-- SUB Rd,Rr (R137). -/
def execSub (d r : Reg) (s : State) : Result State := subInto d (s.reg d) (s.reg r) false false s

/-- SUBI Rd,K (R138). -/
def execSubi (d : Reg) (k : Byte) (s : State) : Result State := subInto d (s.reg d) k false false s

/-- SBC Rd,Rr (R139). -/
def execSbc (d r : Reg) (s : State) : Result State := subInto d (s.reg d) (s.reg r) s.flagC true s

/-- SBCI Rd,K (R140). -/
def execSbci (d : Reg) (k : Byte) (s : State) : Result State := subInto d (s.reg d) k s.flagC true s

/-- SBIW Rd,K (R141). -/
def execSbiw (d : Reg) (k : BitVec 6) (s : State) : Result State :=
  let old := s.pair d
  let res := old - k.setWidth 16
  .next (((s.setPair d res).setSVNZC (subWordFlags old res)).advance 1#22)

/-! ### Logic -/

/-- AND Rd,Rr (R142). -/
def execAnd (d r : Reg) (s : State) : Result State := logicInto d (s.reg d &&& s.reg r) s

/-- ANDI Rd,K (R143). -/
def execAndi (d : Reg) (k : Byte) (s : State) : Result State := logicInto d (s.reg d &&& k) s

/-- OR Rd,Rr (R144). -/
def execOr (d r : Reg) (s : State) : Result State := logicInto d (s.reg d ||| s.reg r) s

/-- ORI Rd,K (R145). -/
def execOri (d : Reg) (k : Byte) (s : State) : Result State := logicInto d (s.reg d ||| k) s

/-- EOR Rd,Rr (R146). -/
def execEor (d r : Reg) (s : State) : Result State := logicInto d (s.reg d ^^^ s.reg r) s

/-- COM Rd: V cleared, C set (R147). -/
def execCom (d : Reg) (s : State) : Result State :=
  let res := 0xFF#8 - s.reg d
  .next (((s.setReg d res).setSVNZC { h := false, v := false, n := bit7 res, z := res == 0#8, c := true }).advance 1#22)

/-- NEG Rd (R148). -/
def execNeg (d : Reg) (s : State) : Result State := subInto d 0#8 (s.reg d) false false s

/-- SBR Rd,K: exactly ORI Rd,K (R149). -/
def execSbr (d : Reg) (k : Byte) (s : State) : Result State := execOri d k s

/-- CBR Rd,K: exactly ANDI Rd,(0xFF - K) (R150). -/
def execCbr (d : Reg) (k : Byte) (s : State) : Result State := execAndi d (0xFF#8 - k) s

/-- INC Rd (R151). -/
def execInc (d : Reg) (s : State) : Result State :=
  let res := s.reg d + 1#8
  .next (((s.setReg d res).setSVNZ (res == 0x80#8) (bit7 res) (res == 0#8)).advance 1#22)

/-- DEC Rd (R152). -/
def execDec (d : Reg) (s : State) : Result State :=
  let res := s.reg d - 1#8
  .next (((s.setReg d res).setSVNZ (res == 0x7F#8) (bit7 res) (res == 0#8)).advance 1#22)

/-- TST Rr: exactly AND Rr,Rr (R153). -/
def execTst (r : Reg) (s : State) : Result State := execAnd r r s

/-- CLR Rd: exactly EOR Rd,Rd (R154). -/
def execClr (d : Reg) (s : State) : Result State := execEor d d s

/-- SER Rd: `R[d] <- 0xFF` (R155). -/
def execSer (d : Reg) (s : State) : Result State := .next ((s.setReg d 0xFF#8).advance 1#22)

/-! ### Multiplications -/

/-- MUL Rd,Rr (R156). -/
def execMul (d r : Reg) (s : State) : Result State := productInto (mulUnsigned (s.reg d) (s.reg r)) s

/-- MULS Rd,Rr (R157). -/
def execMuls (d r : Reg) (s : State) : Result State := productInto (mulSigned (s.reg d) (s.reg r)) s

/-- MULSU Rd,Rr: Rd signed, Rr unsigned (R158). -/
def execMulsu (d r : Reg) (s : State) : Result State := productInto (mulSignedUnsigned (s.reg d) (s.reg r)) s

/-- FMUL Rd,Rr (R159). -/
def execFmul (d r : Reg) (s : State) : Result State := fractionInto (mulUnsigned (s.reg d) (s.reg r)) s

/-- FMULS Rd,Rr (R160). -/
def execFmuls (d r : Reg) (s : State) : Result State := fractionInto (mulSigned (s.reg d) (s.reg r)) s

/-- FMULSU Rd,Rr (R161). -/
def execFmulsu (d r : Reg) (s : State) : Result State := fractionInto (mulSignedUnsigned (s.reg d) (s.reg r)) s

end Sys2Proof.Machine
end

