-- ==== Sys2Proof/Machine/Bits.lean ====
section
/-! DEFINITION. The meanings of the bit and bit-test instructions (spec 44_bit.md, rules R270 to R297). -/

namespace Sys2Proof.Machine

/-! ### I/O bits -/

/-- Read the location, write the byte back with bit `b` made `x` (R270, R271). -/
def ioBit (a : BitVec 5) (b : BitVec 3) (x : Bool) (s : State) : Result State :=
  andThen (memRead s (ioBitAddress a)) fun v =>
  andThen (memWrite v.2 (ioBitAddress a) (withBit v.1 b x)) fun s1 => .next (s1.advance 1#22)

/-- SBI A,b (R270). -/
def execSbi (a : BitVec 5) (b : BitVec 3) (s : State) : Result State := ioBit a b true s

/-- CBI A,b (R271). -/
def execCbi (a : BitVec 5) (b : BitVec 3) (s : State) : Result State := ioBit a b false s

/-! ### Shifts and rotates -/

/-- Store the result of a right shift of R[d], with its flags (R273, R275, R276). -/
def shiftInto (d : Reg) (res : Byte) (s : State) : Result State :=
  .next (((s.setReg d res).setSVNZC (shiftRightFlags (s.reg d) res)).advance 1#22)

/-- LSL Rd: `R[d] <- AddFlags(R[d], R[d], 0)`, as ADD Rd,Rd (R272). -/
def execLsl (d : Reg) (s : State) : Result State :=
  .next (((s.setReg d (addResult (s.reg d) (s.reg d) false)).setHSVNZC
    (addFlags (s.reg d) (s.reg d) false)).advance 1#22)

/-- LSR Rd (R273). -/
def execLsr (d : Reg) (s : State) : Result State := shiftInto d (s.reg d >>> 1) s

/-- ROL Rd: `R[d] <- AddFlags(R[d], R[d], SREG.C)`, as ADC Rd,Rd (R274). -/
def execRol (d : Reg) (s : State) : Result State :=
  .next (((s.setReg d (addResult (s.reg d) (s.reg d) s.flagC)).setHSVNZC
    (addFlags (s.reg d) (s.reg d) s.flagC)).advance 1#22)

/-- ROR Rd: the old C comes in at bit 7 (R275). -/
def execRor (d : Reg) (s : State) : Result State :=
  shiftInto d (BitVec.ofBool s.flagC ++ (s.reg d).extractLsb' 1 7) s

/-- ASR Rd: bit 7 keeps its value (R276). -/
def execAsr (d : Reg) (s : State) : Result State := shiftInto d ((s.reg d).sshiftRight 1) s

/-- SWAP Rd (R277). -/
def execSwap (d : Reg) (s : State) : Result State :=
  .next ((s.setReg d ((s.reg d).extractLsb' 0 4 ++ (s.reg d).extractLsb' 4 4)).advance 1#22)

/-! ### Flags and the T bit -/

/-- BSET s (R278); setting I from 0 sets the inhibit (R296, R318). -/
def execBset (n : BitVec 3) (s : State) : Result State :=
  .next ((s.writeSreg (withBit s.sreg n true)).advance 1#22)

/-- BCLR s (R279). -/
def execBclr (n : BitVec 3) (s : State) : Result State :=
  .next ((s.setSreg (withBit s.sreg n false)).advance 1#22)

/-- BST Rr,b (R280). -/
def execBst (r : Reg) (b : BitVec 3) (s : State) : Result State :=
  .next ((s.setSreg (withBit s.sreg 6#3 (bitOf (s.reg r) b))).advance 1#22)

/-- BLD Rd,b (R281). -/
def execBld (d : Reg) (b : BitVec 3) (s : State) : Result State :=
  .next ((s.setReg d (withBit (s.reg d) b s.flagT)).advance 1#22)

/-- SEC: exactly BSET 0 (R282). -/
def execSec (s : State) : Result State := execBset 0#3 s

/-- CLC: exactly BCLR 0 (R283). -/
def execClc (s : State) : Result State := execBclr 0#3 s

/-- SEZ: exactly BSET 1 (R284). -/
def execSez (s : State) : Result State := execBset 1#3 s

/-- CLZ: exactly BCLR 1 (R285). -/
def execClz (s : State) : Result State := execBclr 1#3 s

/-- SEN: exactly BSET 2 (R286). -/
def execSen (s : State) : Result State := execBset 2#3 s

/-- CLN: exactly BCLR 2 (R287). -/
def execCln (s : State) : Result State := execBclr 2#3 s

/-- SEV: exactly BSET 3 (R288). -/
def execSev (s : State) : Result State := execBset 3#3 s

/-- CLV: exactly BCLR 3 (R289). -/
def execClv (s : State) : Result State := execBclr 3#3 s

/-- SES: exactly BSET 4 (R290). -/
def execSes (s : State) : Result State := execBset 4#3 s

/-- CLS: exactly BCLR 4 (R291). -/
def execCls (s : State) : Result State := execBclr 4#3 s

/-- SEH: exactly BSET 5 (R292). -/
def execSeh (s : State) : Result State := execBset 5#3 s

/-- CLH: exactly BCLR 5 (R293). -/
def execClh (s : State) : Result State := execBclr 5#3 s

/-- SET: exactly BSET 6 (R294). -/
def execSet (s : State) : Result State := execBset 6#3 s

/-- CLT: exactly BCLR 6 (R295). -/
def execClt (s : State) : Result State := execBclr 6#3 s

/-- SEI: exactly BSET 7 (R296). -/
def execSei (s : State) : Result State := execBset 7#3 s

/-- CLI: exactly BCLR 7 (R297). -/
def execCli (s : State) : Result State := execBclr 7#3 s

end Sys2Proof.Machine
end

