-- ==== Sys2Proof/Machine/Branch.lean ====
section
/-! DEFINITION. The meanings of the jumps, calls, returns, compares, skips and branches (spec 43_branch.md, rules R222 to
R259). -/

namespace Sys2Proof.Machine

/-! ### Jumps -/

/-- RJMP k (R222). -/
def execRjmp (k : BitVec 12) (s : State) : Result State := .next (s.setPc (s.target12 k))

/-- IJMP (R223). -/
def execIjmp (s : State) : Result State := .next (s.setPc s.plainZ)

/-- EIJMP (R224). -/
def execEijmp (s : State) : Result State := .next (s.setPc s.extendedZ)

/-- JMP k (R225). -/
def execJmp (k : PcAddr) (s : State) : Result State := .next (s.setPc k)

/-! ### Calls and returns -/

/-- Push the return address of an `n`-word call, then go to `target`, computed before the pushes (R220, R227). -/
def callTo (n target : PcAddr) (s : State) : Result State :=
  andThen (pushPc s (s.returnAddress n)) fun s1 => .next (s1.setPc target)

/-- RCALL k (R226). -/
def execRcall (k : BitVec 12) (s : State) : Result State := callTo 1#22 (s.target12 k) s

/-- ICALL (R227). -/
def execIcall (s : State) : Result State := callTo 1#22 s.plainZ s

/-- EICALL (R228). -/
def execEicall (s : State) : Result State := callTo 1#22 s.extendedZ s

/-- CALL k (R229). -/
def execCall (k : PcAddr) (s : State) : Result State := callTo 2#22 k s

/-- RET (R230). -/
def execRet (s : State) : Result State := andThen (popPc s) fun p => .next (p.2.setPc p.1)

/-- RETI (R231). -/
def execReti (s : State) : Result State := returnFromInterrupt s

/-! ### Compares and skips -/

/-- CPSE Rd,Rr (R232). -/
def execCpse (d r : Reg) (s : State) : Result State := skip (s.reg d == s.reg r) s

/-- The flags of `SubFlags`, the result discarded; `pc <- pc + 1` (R131, R233). -/
def compareBytes (a b : Byte) (cin keepZ : Bool) (s : State) : Result State :=
  .next ((s.setHSVNZC (subFlags a b cin keepZ s.flagZ)).advance 1#22)

/-- CP Rd,Rr (R233). -/
def execCp (d r : Reg) (s : State) : Result State := compareBytes (s.reg d) (s.reg r) false false s

/-- CPC Rd,Rr (R234). -/
def execCpc (d r : Reg) (s : State) : Result State := compareBytes (s.reg d) (s.reg r) s.flagC true s

/-- CPI Rd,K (R235). -/
def execCpi (d : Reg) (k : Byte) (s : State) : Result State := compareBytes (s.reg d) k false false s

/-- SBRC Rr,b (R236). -/
def execSbrc (r : Reg) (b : BitVec 3) (s : State) : Result State := skip (!bitOf (s.reg r) b) s

/-- SBRS Rr,b (R237). -/
def execSbrs (r : Reg) (b : BitVec 3) (s : State) : Result State := skip (bitOf (s.reg r) b) s

/-- SBIC A,b: one read of the location (R238). -/
def execSbic (a : BitVec 5) (b : BitVec 3) (s : State) : Result State :=
  andThen (memRead s (ioBitAddress a)) fun v => skip (!bitOf v.1 b) v.2

/-- SBIS A,b: one read of the location (R239). -/
def execSbis (a : BitVec 5) (b : BitVec 3) (s : State) : Result State :=
  andThen (memRead s (ioBitAddress a)) fun v => skip (bitOf v.1 b) v.2

/-! ### Conditional branches -/

/-- Branch by `k` when `cond` holds, else go on (R240, R241). -/
def branchIf (cond : Bool) (k : BitVec 7) (s : State) : Result State :=
  .next (if cond then s.setPc (s.target7 k) else s.advance 1#22)

/-- BRBS s,k (R240). -/
def execBrbs (n : BitVec 3) (k : BitVec 7) (s : State) : Result State := branchIf (bitOf s.sreg n) k s

/-- BRBC s,k (R241). -/
def execBrbc (n : BitVec 3) (k : BitVec 7) (s : State) : Result State := branchIf (!bitOf s.sreg n) k s

/-- BREQ k: exactly BRBS 1,k (R242). -/
def execBreq (k : BitVec 7) (s : State) : Result State := execBrbs 1#3 k s

/-- BRNE k: exactly BRBC 1,k (R243). -/
def execBrne (k : BitVec 7) (s : State) : Result State := execBrbc 1#3 k s

/-- BRCS k: exactly BRBS 0,k (R244). -/
def execBrcs (k : BitVec 7) (s : State) : Result State := execBrbs 0#3 k s

/-- BRCC k: exactly BRBC 0,k (R245). -/
def execBrcc (k : BitVec 7) (s : State) : Result State := execBrbc 0#3 k s

/-- BRSH k: exactly BRBC 0,k (R246). -/
def execBrsh (k : BitVec 7) (s : State) : Result State := execBrbc 0#3 k s

/-- BRLO k: exactly BRBS 0,k (R247). -/
def execBrlo (k : BitVec 7) (s : State) : Result State := execBrbs 0#3 k s

/-- BRMI k: exactly BRBS 2,k (R248). -/
def execBrmi (k : BitVec 7) (s : State) : Result State := execBrbs 2#3 k s

/-- BRPL k: exactly BRBC 2,k (R249). -/
def execBrpl (k : BitVec 7) (s : State) : Result State := execBrbc 2#3 k s

/-- BRGE k: exactly BRBC 4,k (R250). -/
def execBrge (k : BitVec 7) (s : State) : Result State := execBrbc 4#3 k s

/-- BRLT k: exactly BRBS 4,k (R251). -/
def execBrlt (k : BitVec 7) (s : State) : Result State := execBrbs 4#3 k s

/-- BRHS k: exactly BRBS 5,k (R252). -/
def execBrhs (k : BitVec 7) (s : State) : Result State := execBrbs 5#3 k s

/-- BRHC k: exactly BRBC 5,k (R253). -/
def execBrhc (k : BitVec 7) (s : State) : Result State := execBrbc 5#3 k s

/-- BRTS k: exactly BRBS 6,k (R254). -/
def execBrts (k : BitVec 7) (s : State) : Result State := execBrbs 6#3 k s

/-- BRTC k: exactly BRBC 6,k (R255). -/
def execBrtc (k : BitVec 7) (s : State) : Result State := execBrbc 6#3 k s

/-- BRVS k: exactly BRBS 3,k (R256). -/
def execBrvs (k : BitVec 7) (s : State) : Result State := execBrbs 3#3 k s

/-- BRVC k: exactly BRBC 3,k (R257). -/
def execBrvc (k : BitVec 7) (s : State) : Result State := execBrbc 3#3 k s

/-- BRIE k: exactly BRBS 7,k (R258). -/
def execBrie (k : BitVec 7) (s : State) : Result State := execBrbs 7#3 k s

/-- BRID k: exactly BRBC 7,k (R259). -/
def execBrid (k : BitVec 7) (s : State) : Result State := execBrbc 7#3 k s

end Sys2Proof.Machine
end

