-- ==== Sys2Proof/Machine/Control.lean ====
section
/-! DEFINITION. The meanings of the MCU control instructions (spec 42_mcu_control.md, rules R210 to R213). -/

namespace Sys2Proof.Machine

/-- BREAK, by `BREAK_BEHAVIOUR`: no operation or refused (R210; assumption log 9). -/
def execBrk (s : State) : Result State :=
  match s.cfg.breakBehaviour with
  | .refuse => .refused .breakRefused
  | .nop => .next (s.advance 1#22)

/-- NOP (R211). -/
def execNop (s : State) : Result State := .next (s.advance 1#22)

/-- SLEEP, by `SLEEP_BEHAVIOUR`: wait for an interrupt, no operation, or refused (R212, R328; assumption log 10). The wait
itself, and its end when no interrupt can come, is `waitAsleep`. -/
def execSleep (s : State) : Result State :=
  match s.cfg.sleepBehaviour with
  | .refuse => .refused .sleepRefused
  | .nop => .next (s.advance 1#22)
  | .wait => .next { s.advance 1#22 with sleeping := true }

/-- WDR: an event, and nothing else (R213). -/
def execWdr (s : State) : Result State := .next ((s.record (.watchdogReset s.pc)).advance 1#22)

end Sys2Proof.Machine
end

