-- ==== Sys2Proof/Machine/Transfer.lean ====
section
/-! DEFINITION. The meanings of the data transfer instructions (spec 41_data_transfer.md, rules R171 to R194). -/

namespace Sys2Proof.Machine

/-- MOV Rd,Rr (R171). -/
def execMov (d r : Reg) (s : State) : Result State := .next ((s.setReg d (s.reg r)).advance 1#22)

/-- MOVW Rd,Rr (R172). -/
def execMovw (d r : Reg) (s : State) : Result State := .next ((s.setPair d (s.pair r)).advance 1#22)

/-- LDI Rd,K (R173). -/
def execLdi (d : Reg) (k : Byte) (s : State) : Result State := .next ((s.setReg d k).advance 1#22)

/-- LDS Rd,k (R174). -/
def execLds (d : Reg) (k : Word) (s : State) : Result State :=
  andThen (loadByte d k s) fun s1 => .next (s1.advance 2#22)

/-- LD Rd,X (R175). -/
def execLdX (d : Reg) (s : State) : Result State := loadDisplaced .x d 0#6 s

/-- LD Rd,Y: exactly LDD Rd,Y+0 (R175). -/
def execLdY (d : Reg) (s : State) : Result State := loadDisplaced .y d 0#6 s

/-- LD Rd,Z: exactly LDD Rd,Z+0 (R175). -/
def execLdZ (d : Reg) (s : State) : Result State := loadDisplaced .z d 0#6 s

/-- LD Rd,X+ (R176). -/
def execLdXInc (d : Reg) (s : State) : Result State := loadIncrement .x d s

/-- LD Rd,Y+ (R176). -/
def execLdYInc (d : Reg) (s : State) : Result State := loadIncrement .y d s

/-- LD Rd,Z+ (R176). -/
def execLdZInc (d : Reg) (s : State) : Result State := loadIncrement .z d s

/-- LD Rd,-X (R177). -/
def execLdXDec (d : Reg) (s : State) : Result State := loadDecrement .x d s

/-- LD Rd,-Y (R177). -/
def execLdYDec (d : Reg) (s : State) : Result State := loadDecrement .y d s

/-- LD Rd,-Z (R177). -/
def execLdZDec (d : Reg) (s : State) : Result State := loadDecrement .z d s

/-- LDD Rd,Y+q (R178). -/
def execLddY (d : Reg) (q : BitVec 6) (s : State) : Result State := loadDisplaced .y d q s

/-- LDD Rd,Z+q (R178). -/
def execLddZ (d : Reg) (q : BitVec 6) (s : State) : Result State := loadDisplaced .z d q s

/-- STS k,Rr (R179). -/
def execSts (k : Word) (r : Reg) (s : State) : Result State :=
  andThen (memWrite s k (s.reg r)) fun s1 => .next (s1.advance 2#22)

/-- ST X,Rr (R180). -/
def execStX (r : Reg) (s : State) : Result State := storeDisplaced .x 0#6 r s

/-- ST Y,Rr: exactly STD Y+0,Rr (R180). -/
def execStY (r : Reg) (s : State) : Result State := storeDisplaced .y 0#6 r s

/-- ST Z,Rr: exactly STD Z+0,Rr (R180). -/
def execStZ (r : Reg) (s : State) : Result State := storeDisplaced .z 0#6 r s

/-- ST X+,Rr (R181). -/
def execStXInc (r : Reg) (s : State) : Result State := storeIncrement .x r s

/-- ST Y+,Rr (R181). -/
def execStYInc (r : Reg) (s : State) : Result State := storeIncrement .y r s

/-- ST Z+,Rr (R181). -/
def execStZInc (r : Reg) (s : State) : Result State := storeIncrement .z r s

/-- ST -X,Rr (R182). -/
def execStXDec (r : Reg) (s : State) : Result State := storeDecrement .x r s

/-- ST -Y,Rr (R182). -/
def execStYDec (r : Reg) (s : State) : Result State := storeDecrement .y r s

/-- ST -Z,Rr (R182). -/
def execStZDec (r : Reg) (s : State) : Result State := storeDecrement .z r s

/-- STD Y+q,Rr (R183). -/
def execStdY (q : BitVec 6) (r : Reg) (s : State) : Result State := storeDisplaced .y q r s

/-- STD Z+q,Rr (R183). -/
def execStdZ (q : BitVec 6) (r : Reg) (s : State) : Result State := storeDisplaced .z q r s

/-- The note 7 check of the LPM and ELPM forms with a destination (R170). -/
def checkZ (d : Reg) (s : State) : Result State :=
  if Pointer.z.holds d then .fault .pointerAsOperand else .next s

/-- LPM: into R0 (R184). -/
def execLpm (s : State) : Result State := loadProgram 0#5 s.z.toNat s

/-- LPM Rd,Z (R185). -/
def execLpmZ (d : Reg) (s : State) : Result State :=
  andThen (checkZ d s) fun s1 => loadProgram d s1.z.toNat s1

/-- LPM Rd,Z+ (R186). -/
def execLpmZInc (d : Reg) (s : State) : Result State :=
  andThen (checkZ d s) fun s1 => loadProgramIncrement d s1.z.toNat s1

/-- ELPM: into R0 (R187). -/
def execElpm (s : State) : Result State := loadProgram 0#5 s.rampzZ s

/-- ELPM Rd,Z (R188). -/
def execElpmZ (d : Reg) (s : State) : Result State :=
  andThen (checkZ d s) fun s1 => loadProgram d s1.rampzZ s1

/-- ELPM Rd,Z+: refused at Z = 0xFFFF, where the carry into RAMPZ is open (R189), the refusal before the note 7 fault
(R321; assumption log 15, 16). -/
def execElpmZInc (d : Reg) (s : State) : Result State :=
  if s.z = 0xFFFF#16 then .refused .elpmCarry
  else andThen (checkZ d s) fun s1 => loadProgramIncrement d s1.rampzZ s1

/-- SPM: refused, its only behaviour (R190, R6 `SPM_BEHAVIOUR`; assumption log 11). -/
def execSpm (_s : State) : Result State := .refused .spmRefused

/-- IN Rd,A (R191). -/
def execIoIn (d : Reg) (a : BitVec 6) (s : State) : Result State :=
  andThen (loadByte d (ioAddress a) s) fun s1 => .next (s1.advance 1#22)

/-- OUT A,Rr (R192). -/
def execIoOut (a : BitVec 6) (r : Reg) (s : State) : Result State :=
  andThen (memWrite s (ioAddress a) (s.reg r)) fun s1 => .next (s1.advance 1#22)

/-- PUSH Rr (R193). -/
def execPush (r : Reg) (s : State) : Result State :=
  andThen (push8 s (s.reg r)) fun s1 => .next (s1.advance 1#22)

/-- POP Rd (R194). -/
def execPop (d : Reg) (s : State) : Result State :=
  andThen (pop8 s) fun v => .next ((v.2.setReg d v.1).advance 1#22)

end Sys2Proof.Machine
end

