-- ==== Sys2Proof/Machine/Cycle.lean ====
section
/-! DEFINITION. One step of the machine: an interrupt entry, or one instruction, or the wait of a sleeping core (spec rules
R212, R315, R318, R321). -/

namespace Sys2Proof.Machine

/-- Fetch, decode and execute one instruction. The inhibit is cleared for it, so that it is set afterwards exactly when
this instruction set it (R315, R318; assumption log 24). -/
def runInstruction (s : State) : Result State :=
  andThen (fetch s) fun w =>
  match decodeWords w.1 w.2 with
  | some i => exec i { s with inhibit := false }
  | none => .refused (.reservedEncoding w.1 s.pc)

/-- A boundary at which a sleeping core is not woken: it stays as it is while an interrupt can still come; when none can, the
run is stuck and ends there (R212, 93_implementation_defined.md U4, 92_eei_decisions.md D30; assumption log 10). -/
def waitAsleep (s : State) : Result State :=
  if s.canWake then .next s.passBoundary else .refused .waitNeverEnds

/-- What happens at an instruction boundary (R315, R212). -/
def cycle (s : State) : Result State :=
  match pendingInterrupt s with
  | some src => takeInterrupt src s.passBoundary
  | none => if s.sleeping then waitAsleep s else runInstruction s.passBoundary

/-- The words of an instruction, numbered as spec/opcode_table.json numbers their bits, placed at pc and pc + 1, with no
request presented and the core awake, so that the next step runs it (assumption log 21). -/
def placeInstruction (s : State) (nbits w : Nat) : State :=
  { (s.loadWord s.pc.toNat (BitVec.ofNat 16 (w % 2 ^ nbits))).loadWord (wrapPc s.cfg (s.pc + 1#22)).toNat
      (BitVec.ofNat 16 (w % 2 ^ nbits / 65536)) with
    requests := []
    sleeping := false }

end Sys2Proof.Machine
end

