-- ==== Sys2Proof/Safety.lean ====
section
/-! DEFINITION. The terms the claims are stated in: what a data address shows, what an instruction keeps, what counts as a
safe run, and the invariant of the state. No definition of the machine uses this file. -/

namespace Sys2Proof.Machine

/-! ### What can be seen of a state -/

/-- The RAM byte at a data address: the byte written there last, `none` if nothing was written (R47). -/
def State.ramByte (s : State) (a : Word) : Option Byte := Memory.read ramBlank s.ram a.toNat

/-- The byte a read of a data address answers (R12, R62, R63, R64); `none` where the read stops: above `DATA_TOP`, in
a window that is not there, or at an unwritten RAM byte under `UNWRITTEN_READ` = fault. -/
def State.seen (s : State) (a : Word) : Option Byte :=
  match placeOf s.cfg a with
  | .outside => none
  | .noWindow => none
  | .register r => some (s.reg r)
  | .rampz => some s.rampz
  | .eind => some s.eind
  | .spl => some (lowByte s.sp)
  | .sph => some (highByte s.sp)
  | .sreg => some s.sreg
  | .platform => some (Config.freeByte s.draws)
  | .ram =>
    match s.ramByte a with
    | some v => some v
    | none => if s.cfg.unwrittenRead = .draw then some (Config.freeRam a) else none

/-- How many draws the read of a data address takes: one at a platform location, none elsewhere (R63, R73). -/
def State.drawsAt (s : State) (a : Word) : Nat := if placeOf s.cfg a = .platform then 1 else 0

/-- What the read of a data address adds to the event history: the read of a platform location (R63, R73). -/
def State.eventsAt (s : State) (a : Word) : List Event :=
  if placeOf s.cfg a = .platform then [.ioRead a (Config.freeByte s.draws)] else []

/-- A write of a data address does not stop: it is implemented, and not in a register window that is not there. -/
def State.writable (s : State) (a : Word) : Prop :=
  placeOf s.cfg a ≠ .outside ∧ placeOf s.cfg a ≠ .noWindow

/-- `(pc + n) mod 2^PC_BITS` (R35, R36). -/
def State.pcAfter (s : State) (n : Nat) : PcAddr := BitVec.ofNat 22 ((s.pc.toNat + n) % 2 ^ s.cfg.pcBits)

/-- `(pc + 1 + k) mod 2^PC_BITS` for a signed displacement (R222, R240). -/
def State.pcRelative (s : State) (k : Int) : PcAddr :=
  BitVec.ofNat 22 (((s.pc.toNat : Int) + 1 + k) % (2 ^ s.cfg.pcBits : Nat)).toNat

/-- The word of program memory at a word address, from its two bytes (R67). -/
def State.programWord (s : State) (wa : Nat) : Word := joinBytes (s.flashByte (2 * wa + 1)) (s.flashByte (2 * wa))

/-- The first word of the instruction that follows a one-word instruction at pc (R221). -/
def State.followingWord (s : State) : Word := s.programWord (s.pcAfter 1).toNat

/-! ### What an instruction keeps -/

/-- Every register but those listed is as before. -/
def keepsRegisters (s t : State) (changed : List Reg) : Prop := ∀ r, r ∉ changed → t.reg r = s.reg r

/-- Every flag but those listed, by their numbers (R37), is as before. -/
def keepsFlags (s t : State) (changed : List (BitVec 3)) : Prop := ∀ n, n ∉ changed → bitOf t.sreg n = bitOf s.sreg n

/-- RAMPZ, EIND and the parameters are as before. -/
def keepsSpecial (s t : State) : Prop := t.cfg = s.cfg ∧ t.rampz = s.rampz ∧ t.eind = s.eind

/-- The inhibit marker, the sleeping marker and the presented requests are as before. -/
def keepsInterrupts (s t : State) : Prop :=
  t.inhibit = s.inhibit ∧ t.sleeping = s.sleeping ∧ t.requests = s.requests

/-- Every RAM byte is as before. -/
def keepsRam (s t : State) : Prop := ∀ a, t.ramByte a = s.ramByte a

/-- Every byte of program memory is as before. -/
def keepsProgram (s t : State) : Prop := ∀ ba, t.flashByte ba = s.flashByte ba

/-- No draw was taken and no event recorded. -/
def keepsPlatform (s t : State) : Prop := t.draws = s.draws ∧ t.events = s.events

/-- The frame of an instruction that only computes: all but the listed registers and flags, and the pc, is as before. -/
def keepsRest (s t : State) (registers : List Reg) (flags : List (BitVec 3)) : Prop :=
  keepsRegisters s t registers ∧ keepsFlags s t flags ∧ t.sp = s.sp ∧ keepsSpecial s t ∧ keepsInterrupts s t ∧
    keepsRam s t ∧ keepsProgram s t ∧ keepsPlatform s t

/-- The frame of an instruction that reads one data byte at `a`, seen from the state `u` at the read: as `keepsRest`,
with the draw and the event of that read. -/
def keepsRestButRead (u s t : State) (a : Word) (registers : List Reg) : Prop :=
  keepsRegisters s t registers ∧ keepsFlags s t [] ∧ keepsSpecial s t ∧ keepsInterrupts s t ∧
    keepsRam s t ∧ keepsProgram s t ∧ t.draws = u.draws + u.drawsAt a ∧ t.events = u.events ++ u.eventsAt a

/-! ### What a store of one byte does -/

/-- The register file after a store of `v` at `a` over the register file of `u` (R64). -/
def State.regAfterStore (u : State) (a : Word) (v : Byte) (r : Reg) : Byte :=
  if placeOf u.cfg a = .register r then v else u.reg r

/-- SP after a store of `v` at `a` (R40). -/
def State.spAfterStore (s : State) (a : Word) (v : Byte) : Word :=
  match placeOf s.cfg a with
  | .spl => joinBytes (highByte s.sp) v
  | .sph => joinBytes v (lowByte s.sp)
  | _ => s.sp

/-- All the rest after a store of `v` at `a`: the CPU's own registers in the I/O window (R41 to R43, R318), the events of
the platform (R63), RAM by its bytes, and what no store changes. -/
def storesByte (s t : State) (a : Word) (v : Byte) : Prop :=
  t.cfg = s.cfg ∧
  t.rampz = (if placeOf s.cfg a = .rampz then v &&& s.cfg.rampzMask else s.rampz) ∧
  t.eind = (if placeOf s.cfg a = .eind then v &&& s.cfg.eindMask else s.eind) ∧
  t.sreg = (if placeOf s.cfg a = .sreg then v else s.sreg) ∧
  t.inhibit = (s.inhibit || (decide (placeOf s.cfg a = .sreg) && !s.flagI && bit7 v)) ∧
  t.events = (if placeOf s.cfg a = .platform then s.events ++ [.ioWrite a v] else s.events) ∧
  t.ramByte a = (if placeOf s.cfg a = .ram then some v else s.ramByte a) ∧
  (∀ b, b ≠ a → t.ramByte b = s.ramByte b) ∧
  keepsProgram s t ∧ t.sleeping = s.sleeping ∧ t.requests = s.requests

/-- The `PCBYTES` bytes from SP downwards, where a return address is pushed, lie in RAM (R69). -/
def State.pushRoom (s : State) : Prop := ∀ j, j < s.cfg.pcBytes → placeOf s.cfg (s.sp - BitVec.ofNat 16 j) = .ram

/-- What pushing the return address `ret` does when the stack lies in RAM: the least significant byte at SP, the next below
it, the third below that when `PCBYTES` = 3, SP less `PCBYTES`, every other RAM byte as before (R69). -/
def pushesReturn (s t : State) (ret : PcAddr) : Prop :=
  t.sp = s.sp - BitVec.ofNat 16 s.cfg.pcBytes ∧
  t.ramByte s.sp = some (BitVec.ofNat 8 ret.toNat) ∧
  t.ramByte (s.sp - 1#16) = some (BitVec.ofNat 8 (ret.toNat / 256)) ∧
  (s.cfg.pcBytes = 3 → t.ramByte (s.sp - 2#16) = some (BitVec.ofNat 8 (ret.toNat / 65536))) ∧
  ∀ b, (∀ j, j < s.cfg.pcBytes → b ≠ s.sp - BitVec.ofNat 16 j) → t.ramByte b = s.ramByte b

/-- The state shows the bytes `h` (only when `PCBYTES` = 3), `m`, `l` in RAM above SP, where PopPC finds them (R69). -/
def stackShows (s : State) (h m l : Byte) : Prop :=
  (s.cfg.pcBytes = 3 → placeOf s.cfg (s.sp + 1#16) = .ram ∧ s.ramByte (s.sp + 1#16) = some h) ∧
  (s.cfg.pcBytes = 2 → h = 0#8) ∧
  placeOf s.cfg (s.sp + BitVec.ofNat 16 s.cfg.pcBytes - 1#16) = .ram ∧
  s.ramByte (s.sp + BitVec.ofNat 16 s.cfg.pcBytes - 1#16) = some m ∧
  placeOf s.cfg (s.sp + BitVec.ofNat 16 s.cfg.pcBytes) = .ram ∧
  s.ramByte (s.sp + BitVec.ofNat 16 s.cfg.pcBytes) = some l

/-- The addresses the pushes of a return address store to, one after the other (R69). Each push takes SP as the one before
left it, also where that one stored to SP itself (assumption log 17). -/
def pushAddresses (s : State) (ret : PcAddr) : List Word :=
  s.sp ::
    match push8 s (ret.extractLsb' 0 8) with
    | .next s1 =>
      s1.sp ::
        match s.cfg.pcWidth, push8 s1 (ret.extractLsb' 8 8) with
        | .w22, .next s2 => [s2.sp]
        | _, _ => []
    | _ => []

/-- The data addresses an instruction stores to (R71). -/
def storeAddresses (i : Instr) (s : State) : List Word :=
  match i with
  | .sts k _ => [k]
  | .stX _ => [s.pointer .x]
  | .stY _ => [s.pointer .y]
  | .stZ _ => [s.pointer .z]
  | .stXInc _ => [s.pointer .x]
  | .stYInc _ => [s.pointer .y]
  | .stZInc _ => [s.pointer .z]
  | .stXDec _ => [s.pointer .x - 1#16]
  | .stYDec _ => [s.pointer .y - 1#16]
  | .stZDec _ => [s.pointer .z - 1#16]
  | .stdY q _ => [s.pointer .y + q.setWidth 16]
  | .stdZ q _ => [s.pointer .z + q.setWidth 16]
  | .ioOut a _ => [ioAddress a]
  | .sbi a _ => [ioBitAddress a]
  | .cbi a _ => [ioBitAddress a]
  | .push _ => [s.sp]
  | .rcall _ => pushAddresses s (s.returnAddress 1#22)
  | .icall => pushAddresses s (s.returnAddress 1#22)
  | .eicall => pushAddresses s (s.returnAddress 1#22)
  | .call _ => pushAddresses s (s.returnAddress 2#22)
  | _ => []

/-- The addresses the pops of a return address read, one after the other, up to the first that stops (R69). -/
def popAddresses (s : State) : List Word :=
  if (s.seen (s.sp + 1#16)).isNone then [s.sp + 1#16]
  else if (s.seen (s.sp + 2#16)).isNone then [s.sp + 1#16, s.sp + 2#16]
  else match s.cfg.pcWidth with
    | .w16 => [s.sp + 1#16, s.sp + 2#16]
    | .w22 => [s.sp + 1#16, s.sp + 2#16, s.sp + 3#16]

/-- The data addresses an instruction reads (R71). -/
def loadAddresses (i : Instr) (s : State) : List Word :=
  match i with
  | .lds _ k => [k]
  | .ldX _ => [s.pointer .x]
  | .ldY _ => [s.pointer .y]
  | .ldZ _ => [s.pointer .z]
  | .ldXInc _ => [s.pointer .x]
  | .ldYInc _ => [s.pointer .y]
  | .ldZInc _ => [s.pointer .z]
  | .ldXDec _ => [s.pointer .x - 1#16]
  | .ldYDec _ => [s.pointer .y - 1#16]
  | .ldZDec _ => [s.pointer .z - 1#16]
  | .lddY _ q => [s.pointer .y + q.setWidth 16]
  | .lddZ _ q => [s.pointer .z + q.setWidth 16]
  | .ioIn _ a => [ioAddress a]
  | .sbi a _ => [ioBitAddress a]
  | .cbi a _ => [ioBitAddress a]
  | .sbic a _ => [ioBitAddress a]
  | .sbis a _ => [ioBitAddress a]
  | .pop _ => [s.sp + 1#16]
  | .ret => popAddresses s
  | .reti => popAddresses s
  | _ => []

/-- The program word a taken skip reads: the following one (R221). -/
def skipAddresses (taken : Bool) (s : State) : List Nat := if taken then [(s.pcAfter 1).toNat] else []

/-- The word addresses of program memory an instruction reads: the word of the byte LPM and ELPM load (R67), and the word
after a skip that is taken (R221). -/
def programAddresses (i : Instr) (s : State) : List Nat :=
  match i with
  | .lpm => [s.z.toNat / 2]
  | .lpmZ _ => [s.z.toNat / 2]
  | .lpmZInc _ => [s.z.toNat / 2]
  | .elpm => [s.rampzZ / 2]
  | .elpmZ _ => [s.rampzZ / 2]
  | .elpmZInc _ => [s.rampzZ / 2]
  | .cpse d r => skipAddresses (s.reg d == s.reg r) s
  | .sbrc r b => skipAddresses (!bitOf (s.reg r) b) s
  | .sbrs r b => skipAddresses (bitOf (s.reg r) b) s
  | .sbic a b => skipAddresses ((s.seen (ioBitAddress a)).any fun v => !bitOf v b) s
  | .sbis a b => skipAddresses ((s.seen (ioBitAddress a)).any fun v => bitOf v b) s
  | _ => []

/-! ### Reserved words -/

/-- The patterns of R114, as (mask, pattern), with the words each row excepts. -/
def reservedRows : List (Word × Word × List Word) :=
  [(0xFF00#16, 0x0000#16, [0x0000#16]),
   (0xFE0F#16, 0x9003#16, []), (0xFE0F#16, 0x9008#16, []), (0xFE0F#16, 0x900B#16, []),
   (0xFE0F#16, 0x9203#16, []), (0xFE0F#16, 0x9204#16, []), (0xFE0F#16, 0x9205#16, []), (0xFE0F#16, 0x9206#16, []),
   (0xFE0F#16, 0x9207#16, []), (0xFE0F#16, 0x9208#16, []), (0xFE0F#16, 0x920B#16, []),
   (0xFE0F#16, 0x9404#16, []), (0xFE0F#16, 0x940B#16, []),
   (0xFE0F#16, 0x9409#16, [0x9409#16, 0x9419#16, 0x9509#16, 0x9519#16]),
   (0xFF0F#16, 0x9508#16,
     [0x9508#16, 0x9518#16, 0x9588#16, 0x9598#16, 0x95A8#16, 0x95C8#16, 0x95D8#16, 0x95E8#16]),
   (0xF808#16, 0xF808#16, [])]

/-! ### Safe runs -/

/-- The instruction ends with a next state. -/
def completes (i : Instr) (s : State) : Prop := ∃ t, exec i s = .next t

/-- `n` steps from `s` all end with a next state. -/
def runsSafely : Nat → State → Prop
  | 0, _ => True
  | n + 1, s => ∃ t, step s = .next t ∧ runsSafely n t

/-- The data register of an indirect instruction and the pointer it goes through (R170). -/
def indirectOperand : Instr → Option (Pointer × Reg)
  | .ldX d => some (.x, d)
  | .ldY d => some (.y, d)
  | .ldZ d => some (.z, d)
  | .ldXInc d => some (.x, d)
  | .ldYInc d => some (.y, d)
  | .ldZInc d => some (.z, d)
  | .ldXDec d => some (.x, d)
  | .ldYDec d => some (.y, d)
  | .ldZDec d => some (.z, d)
  | .lddY d _ => some (.y, d)
  | .lddZ d _ => some (.z, d)
  | .stX r => some (.x, r)
  | .stY r => some (.y, r)
  | .stZ r => some (.z, r)
  | .stXInc r => some (.x, r)
  | .stYInc r => some (.y, r)
  | .stZInc r => some (.z, r)
  | .stXDec r => some (.x, r)
  | .stYDec r => some (.y, r)
  | .stZDec r => some (.z, r)
  | .stdY _ r => some (.y, r)
  | .stdZ _ r => some (.z, r)
  | .lpmZ d => some (.z, d)
  | .lpmZInc d => some (.z, d)
  | .elpmZ d => some (.z, d)
  | .elpmZInc d => some (.z, d)
  | _ => none

/-- The indirect instructions that need X or Y on the core: those of R195, not LPM and ELPM. -/
def needsXY (i : Instr) : Bool :=
  match indirectOperand i with
  | some (.x, _) => true
  | some (.y, _) => true
  | _ => false

/-- The instruction names a register of its own pointer as its data register: note 7's undefined case (R170, R344). -/
def pointerHazard (i : Instr) : Bool :=
  match indirectOperand i with
  | some (p, r) => r == p.lo || r == p.lo + 1#5
  | none => false

/-- No check that comes before an instruction's accesses stops it: neither note 7, nor the absence of X and Y, nor the carry of
ELPM Rd,Z+ (R170, R195, R189, R321). -/
def reachesAccess (i : Instr) (s : State) : Prop :=
  pointerHazard i = false ∧ (needsXY i = true → s.cfg.hasXY = true) ∧ ∀ d, i = .elpmZInc d → s.z ≠ 0xFFFF#16

/-- A data address that lies in the register window of a part without one, and is not above `DATA_TOP` (R64, R75). -/
def State.inAbsentWindow (s : State) (a : Word) : Prop :=
  a.toNat ≤ s.cfg.dataTop.toNat ∧ a.toNat < 0x20 ∧ s.cfg.regsInDataSpace = false

/-- A RAM byte whose read faults: unwritten, under `UNWRITTEN_READ` = fault (R47). -/
def State.unreadable (s : State) (a : Word) : Prop :=
  s.cfg.unwrittenRead = .fault ∧ placeOf s.cfg a = .ram ∧ s.ramByte a = none

/-- The causes of the faults an instruction ends in, each with the address it accesses itself (R311). -/
def Fault.cause (f : Fault) (i : Instr) (s : State) : Prop :=
  match f with
  | .pointerAsOperand => pointerHazard i = true
  | .dataOutside a => (a ∈ loadAddresses i s ∨ a ∈ storeAddresses i s) ∧ s.cfg.dataTop.toNat < a.toNat
  | .programOutside wa => wa ∈ programAddresses i s ∧ s.cfg.programWords ≤ wa
  | .unwrittenRead a => a ∈ loadAddresses i s ∧ s.unreadable a

/-- The causes of the refusals an instruction ends in (R311): none for the refusal of a reserved word and the end of a stuck
wait, which are the step's, and for the one of an arm without a meaning, which no arm has. -/
def Refusal.cause (r : Refusal) (i : Instr) (s : State) : Prop :=
  match r with
  | .breakRefused => i = .brk ∧ s.cfg.breakBehaviour = .refuse
  | .sleepRefused => i = .sleep ∧ s.cfg.sleepBehaviour = .refuse
  | .spmRefused => i = .spm
  | .elpmCarry => ∃ d, i = .elpmZInc d ∧ s.z = 0xFFFF#16
  | .pointerXYAbsent => needsXY i = true ∧ s.cfg.hasXY = false
  | .dataBelow0x20 => ∃ a, (a ∈ loadAddresses i s ∨ a ∈ storeAddresses i s) ∧ s.inAbsentWindow a
  | _ => False

/-! ### The invariant of the state -/

/-- The program addresses among the parameters lie within `PC_BITS`: the reset vector (R6, R36) and `FLASH_WORDS` (R61). -/
def parametersFit (c : Config) : Prop := c.resetVector.toNat < 2 ^ c.pcBits ∧ c.flashWords ≤ 2 ^ c.pcBits

/-- What every step keeps: the parameters such as a part can have them (R6, R61), the pc within `PC_BITS` (R34, R36), no unimplemented bit of RAMPZ or EIND set (R41, R42), RAM in
canonical form and listed only where the map of R62 has RAM, program memory in canonical form. -/
def State.consistent (s : State) : Prop :=
  parametersFit s.cfg ∧
  s.pc.toNat < 2 ^ s.cfg.pcBits ∧
  s.rampz &&& ~~~s.cfg.rampzMask = 0#8 ∧ s.eind &&& ~~~s.cfg.eindMask = 0#8 ∧
  Memory.wf ramBlank s.ram ∧ (∀ c ∈ s.ram, c.1 < 65536 ∧ placeOf s.cfg (BitVec.ofNat 16 c.1) = .ram) ∧
  Memory.wf flashBlank s.flash

end Sys2Proof.Machine
end

