-- ==== Sys2Proof/Certificates/Slice0/Obligations.lean ====
section
/-! DEFINITION. The statements for the provers. R<n> names a rule of spec/; "log <n>" an entry of notes/assumptions/, named where
a clause is the model's own choice. A statement over every register number also speaks of operands that no encoding holds
(log 23), unless it asks for `Instr.wf`. -/

open Sys2Proof Sys2Proof.Machine

/-! ### Encoding and decoding -/

/-- R118, R119: the words of every well-formed instruction decode to that instruction, those of an alias row to the real
instruction the row stands for (alias rows are constructors of the model: log 19), and the bytes after them are left over. -/
def Obligations.DecodeInvertsEncode : Prop :=
  ∀ (i : Instr) (rest : List Byte), i.wf = true → decode (wordBytes (encode i) ++ rest) = .ok (i.expand, rest)

/-- R90, R91, R119: an instruction decoded from two words is well-formed, is a real row's, and encodes to the first word,
or to both words when the first announces two. -/
def Obligations.DecodedWordsEncodeBack : Prop :=
  ∀ (w w2 : Word) (i : Instr), decodeWords w w2 = some i →
    i.wf = true ∧ i.expand = i ∧ encode i = if isTwoWord w then [w, w2] else [w]

/-- R114: the words that decode to no instruction are exactly those of the list of reserved first words. -/
def Obligations.ReservedWordsAreTheListed : Prop :=
  ∀ (w w2 : Word), decodeWords w w2 = none ↔ ∃ r ∈ reservedRows, w &&& r.1 = r.2.1 ∧ w ∉ r.2.2

/-- Eighteen words of the rules' own examples, several per family, decode to the instructions the rules name: R134, R136, R138,
R156, R172, R174, R177, R183, R189, R192, R222, R229, R239, R240, R270, R278, R281, R210. -/
def Obligations.ExampleWordsDecode : Prop :=
  decodeWords 0x0C12#16 0#16 = some (.add 1#5 2#5) ∧
  decodeWords 0x96FF#16 0#16 = some (.adiw 30#5 63#6) ∧
  decodeWords 0x5FFF#16 0#16 = some (.subi 31#5 0xFF#8) ∧
  decodeWords 0x9C23#16 0#16 = some (.mul 2#5 3#5) ∧
  decodeWords 0x01CF#16 0#16 = some (.movw 24#5 30#5) ∧
  decodeWords 0x9050#16 0x0200#16 = some (.lds 5#5 0x0200#16) ∧
  decodeWords 0x904E#16 0#16 = some (.ldXDec 4#5) ∧
  decodeWords 0x8275#16 0#16 = some (.stdZ 5#6 7#5) ∧
  decodeWords 0x9117#16 0#16 = some (.elpmZInc 17#5) ∧
  decodeWords 0xBEBE#16 0#16 = some (.ioOut 0x3E#6 11#5) ∧
  decodeWords 0xC7FF#16 0#16 = some (.rjmp 2047#12) ∧
  decodeWords 0x941E#16 0x3456#16 = some (.call 0x023456#22) ∧
  decodeWords 0x9B2A#16 0#16 = some (.sbis 5#5 2#3) ∧
  decodeWords 0xF029#16 0#16 = some (.brbs 1#3 5#7) ∧
  decodeWords 0x9A2B#16 0#16 = some (.sbi 5#5 3#3) ∧
  decodeWords 0x9478#16 0#16 = some (.bset 7#3) ∧
  decodeWords 0xF970#16 0#16 = some (.bld 23#5 0#3) ∧
  decodeWords 0x9598#16 0#16 = some .brk

/-! ### The step -/

/-- R315, R318: a core that is awake and takes no interrupt at this boundary fetches the word or two words at pc, and its step
is the meaning of the instruction they decode to, with this boundary's requests used up (log 13) and the inhibit cleared (log
24); the bound of R61 on FLASH_WORDS is log 31. -/
def Obligations.StepRunsDecodedInstruction : Prop :=
  ∀ (s : State) (i : Instr), pendingInterrupt s = none → s.sleeping = false →
    s.pc.toNat < s.cfg.programWords →
    (isTwoWord (s.programWord s.pc.toNat) = true → (s.pcAfter 1).toNat < s.cfg.programWords) →
    decodeWords (s.programWord s.pc.toNat) (s.programWord (s.pcAfter 1).toNat) = some i →
    step s = exec i { s with requests := s.requests.tail, inhibit := false }

/-- R113, R321: at a boundary without an interrupt a word that decodes to nothing is refused under its name, and a fetch of the
first or second word at or above FLASH_WORDS faults before that (the bound of R61 on FLASH_WORDS: log 31). -/
def Obligations.StepStopsAtTheFetch : Prop :=
  ∀ (s : State), pendingInterrupt s = none → s.sleeping = false →
    (s.cfg.programWords ≤ s.pc.toNat → step s = .fault (.programOutside s.pc.toNat)) ∧
    (s.pc.toNat < s.cfg.programWords → isTwoWord (s.programWord s.pc.toNat) = true →
      s.cfg.programWords ≤ (s.pcAfter 1).toNat → step s = .fault (.programOutside (s.pcAfter 1).toNat)) ∧
    (s.pc.toNat < s.cfg.programWords → isTwoWord (s.programWord s.pc.toNat) = false →
      decodeWords (s.programWord s.pc.toNat) 0#16 = none →
      step s = .refused (.reservedEncoding (s.programWord s.pc.toNat) s.pc))

/-- R34, R36, R41, R42, R61, R62: every step keeps the state consistent: the reset vector and FLASH_WORDS within 2^PC_BITS, the
pc within PC_BITS, no unimplemented bit of RAMPZ or EIND set, RAM canonical and only where the map has RAM, program memory
canonical. -/
def Obligations.StepKeepsConsistentState : Prop :=
  ∀ (s t : State), s.consistent → step s = .next t → t.consistent

/-- The reset state is consistent, with the parameters the model chose (log 4) as with all parameters whose reset vector and
FLASH_WORDS lie within 2^PC_BITS, and for every canonical program. -/
def Obligations.ResetStateIsConsistent : Prop :=
  State.reset.consistent ∧
  ∀ (c : Config) (program : Memory), parametersFit c → Memory.wf flashBlank program →
    (State.resetWith c program).consistent

/-- R80, R48: no step changes program memory or a parameter. -/
def Obligations.StepKeepsProgramMemory : Prop :=
  ∀ (s t : State), step s = .next t → t.flash = s.flash ∧ t.cfg = s.cfg

/-- R340: what reset leaves, where the rule gives a value: the pc at RESET_VECTOR, SREG, RAMPZ and EIND zero, SP at SP_RESET, no
RAM byte written, the program as loaded, the inhibit clear, no request, not sleeping. The general registers' zero is the
model's own choice (log 1) and not stated here. -/
def Obligations.ResetLeavesTheStatedValues : Prop :=
  ∀ (c : Config) (program : Memory),
    let s := State.resetWith c program
    s.pc = c.resetVector ∧ s.sreg = 0#8 ∧ s.rampz = 0#8 ∧ s.eind = 0#8 ∧ s.sp = c.spReset ∧
    (∀ a, s.ramByte a = none) ∧ s.flash = program ∧ s.inhibit = false ∧ s.presented = [] ∧ s.sleeping = false ∧
    State.reset = State.resetWith Config.generic [] ∧ Config.generic.resetVector = 0#22

/-- R118: each alias row has exactly the meaning of the instruction it stands for. -/
def Obligations.AliasRunsAsItsExpansion : Prop := ∀ (i : Instr) (s : State), exec i s = exec i.expand s

/-! ### Addition, subtraction, comparison -/

/-- R130: ADD, ADC and their names LSL, ROL write the sum and H, S, V, N, Z, C as AddFlags gives them, in the arithmetic and in
the Boolean form of the rule, and keep everything else. -/
def Obligations.AdditionWritesSumAndFlags : Prop :=
  ∀ (s : State) (d r : Reg) (i : Instr) (b : Byte) (cin : Bool),
    (i, b, cin) ∈ [(Instr.add d r, s.reg r, false), (.adc d r, s.reg r, s.flagC),
      (.lsl d, s.reg d, false), (.rol d, s.reg d, s.flagC)] →
    ∃ t, exec i s = .next t ∧
      let a := s.reg d
      let res := t.reg d
      res.toNat = (a.toNat + b.toNat + cin.toNat) % 256 ∧
      t.flagC = decide (256 ≤ a.toNat + b.toNat + cin.toNat) ∧
      t.flagC = ((bit7 a && bit7 b) || (bit7 b && !bit7 res) || (!bit7 res && bit7 a)) ∧
      t.flagH = decide (16 ≤ a.toNat % 16 + b.toNat % 16 + cin.toNat) ∧
      t.flagH = ((bitOf a 3#3 && bitOf b 3#3) || (bitOf b 3#3 && !bitOf res 3#3) || (!bitOf res 3#3 && bitOf a 3#3)) ∧
      t.flagN = bit7 res ∧
      t.flagV = ((bit7 a && bit7 b && !bit7 res) || (!bit7 a && !bit7 b && bit7 res)) ∧
      t.flagZ = decide (res.toNat = 0) ∧
      t.flagS = (t.flagN ^^ t.flagV) ∧
      t.pc = s.pcAfter 1 ∧ keepsRest s t [d] [0#3, 1#3, 2#3, 3#3, 4#3, 5#3]

/-- R131: SUB, SUBI, SBC, SBCI, NEG write the difference, CP, CPC, CPI do not; all eight write H, S, V, N, Z, C as SubFlags
gives them, in the arithmetic and in the Boolean form of the rule, SBC, SBCI and CPC keeping an old Z of 0; everything else is
kept. -/
def Obligations.SubtractionWritesDifferenceAndFlags : Prop :=
  ∀ (s : State) (d r : Reg) (k : Byte) (i : Instr) (written : List Reg) (a b : Byte) (cin keepZ : Bool),
    (i, written, a, b, cin, keepZ) ∈
      [(Instr.sub d r, [d], s.reg d, s.reg r, false, false), (.subi d k, [d], s.reg d, k, false, false),
       (.sbc d r, [d], s.reg d, s.reg r, s.flagC, true), (.sbci d k, [d], s.reg d, k, s.flagC, true),
       (.neg d, [d], 0#8, s.reg d, false, false),
       (.cp d r, [], s.reg d, s.reg r, false, false), (.cpc d r, [], s.reg d, s.reg r, s.flagC, true),
       (.cpi d k, [], s.reg d, k, false, false)] →
    i.wf = true →
    ∃ t, exec i s = .next t ∧
      let res := BitVec.ofInt 8 ((a.toNat : Int) - b.toNat - cin.toNat)
      (d ∈ written → t.reg d = res) ∧
      t.flagC = decide (a.toNat < b.toNat + cin.toNat) ∧
      t.flagC = ((!bit7 a && bit7 b) || (bit7 b && bit7 res) || (bit7 res && !bit7 a)) ∧
      t.flagH = decide (a.toNat % 16 < b.toNat % 16 + cin.toNat) ∧
      t.flagH = ((!bitOf a 3#3 && bitOf b 3#3) || (bitOf b 3#3 && bitOf res 3#3) || (bitOf res 3#3 && !bitOf a 3#3)) ∧
      t.flagN = bit7 res ∧
      t.flagV = ((bit7 a && !bit7 b && !bit7 res) || (!bit7 a && bit7 b && bit7 res)) ∧
      t.flagZ = (decide (res.toNat = 0) && (!keepZ || s.flagZ)) ∧
      t.flagS = (t.flagN ^^ t.flagV) ∧
      t.pc = s.pcAfter 1 ∧ keepsRest s t written [0#3, 1#3, 2#3, 3#3, 4#3, 5#3]

/-- R37, R39: after an 8-bit addition, subtraction or comparison, V says that the exact signed result lies outside -128 to
127, and S that it is negative. -/
def Obligations.OverflowAndSignFlagsAreSigned : Prop :=
  ∀ (s t : State) (d r : Reg) (k : Byte) (i : Instr) (e : Int),
    (i, e) ∈
      [(Instr.add d r, (s.reg d).toInt + (s.reg r).toInt), (.adc d r, (s.reg d).toInt + (s.reg r).toInt + s.flagC.toNat),
       (.sub d r, (s.reg d).toInt - (s.reg r).toInt), (.subi d k, (s.reg d).toInt - k.toInt),
       (.sbc d r, (s.reg d).toInt - (s.reg r).toInt - s.flagC.toNat), (.sbci d k, (s.reg d).toInt - k.toInt - s.flagC.toNat),
       (.neg d, - (s.reg d).toInt),
       (.cp d r, (s.reg d).toInt - (s.reg r).toInt), (.cpi d k, (s.reg d).toInt - k.toInt),
       (.cpc d r, (s.reg d).toInt - (s.reg r).toInt - s.flagC.toNat)] →
    exec i s = .next t →
    t.flagV = decide (e < -128 ∨ 127 < e) ∧ t.flagS = decide (e < 0)

/-- R148: the flags of NEG, reduced: C says the result is not zero, V that it is 0x80, H is bit 3 of the result or of the old
register. -/
def Obligations.NegateFlagsReduce : Prop :=
  ∀ (s : State) (d : Reg), ∃ t, exec (.neg d) s = .next t ∧
    t.flagC = decide (t.reg d ≠ 0#8) ∧ t.flagV = decide (t.reg d = 0x80#8) ∧
    t.flagH = (bitOf (t.reg d) 3#3 || bitOf (s.reg d) 3#3) ∧
    t.flagN = bit7 (t.reg d) ∧ t.flagZ = decide (t.reg d = 0#8) ∧ t.flagS = (t.flagN ^^ t.flagV)

/-- R133, R136, R141: ADIW and SBIW add and subtract a constant on a register pair; C is exactly the carry out of bit 15 or
the borrow, V exactly the signed overflow; H and everything else is kept. -/
def Obligations.WordArithmeticOnPairs : Prop :=
  ∀ (s : State) (d : Reg) (k : BitVec 6), (Instr.adiw d k).wf = true →
    (∃ t, exec (.adiw d k) s = .next t ∧
      let old := s.pair d
      let res := t.pair d
      res.toNat = (old.toNat + k.toNat) % 65536 ∧
      t.flagN = res.getLsbD 15 ∧ t.flagZ = decide (res.toNat = 0) ∧
      t.flagV = (!old.getLsbD 15 && res.getLsbD 15) ∧ t.flagV = decide (32767 < old.toInt + k.toNat) ∧
      t.flagC = (old.getLsbD 15 && !res.getLsbD 15) ∧ t.flagC = decide (65536 ≤ old.toNat + k.toNat) ∧
      t.flagS = (t.flagN ^^ t.flagV) ∧
      t.pc = s.pcAfter 1 ∧ keepsRest s t [d, d + 1#5] [0#3, 1#3, 2#3, 3#3, 4#3]) ∧
    (∃ t, exec (.sbiw d k) s = .next t ∧
      let old := s.pair d
      let res := t.pair d
      (res.toNat : Int) = ((old.toNat : Int) - k.toNat) % 65536 ∧
      t.flagN = res.getLsbD 15 ∧ t.flagZ = decide (res.toNat = 0) ∧
      t.flagV = (old.getLsbD 15 && !res.getLsbD 15) ∧ t.flagV = decide (old.toInt - k.toNat < -32768) ∧
      t.flagC = (res.getLsbD 15 && !old.getLsbD 15) ∧ t.flagC = decide (old.toNat < k.toNat) ∧
      t.flagS = (t.flagN ^^ t.flagV) ∧
      t.pc = s.pcAfter 1 ∧ keepsRest s t [d, d + 1#5] [0#3, 1#3, 2#3, 3#3, 4#3])

/-- R135, R139, R140, R234: an addition, subtraction (of a register or a constant) or comparison of the low bytes followed by
the one with carry of the high bytes is the 16-bit operation: its result, C its carry or borrow, and for subtraction and
comparison Z exactly when the 16-bit difference is zero. A chain that writes asks that the low result is no operand of the
second instruction; a comparison asks nothing. -/
def Obligations.TwoByteArithmeticChains : Prop :=
  ∀ (s t u : State) (d r d1 r1 : Reg) (k k1 : Byte),
    let x := (s.reg d1).toNat * 256 + (s.reg d).toNat
    let y := (s.reg r1).toNat * 256 + (s.reg r).toNat
    let c := k1.toNat * 256 + k.toNat
    (d1 ≠ d → r1 ≠ d → exec (.add d r) s = .next t → exec (.adc d1 r1) t = .next u →
      (u.reg d1).toNat * 256 + (u.reg d).toNat = (x + y) % 65536 ∧ u.flagC = decide (65536 ≤ x + y)) ∧
    (d1 ≠ d → r1 ≠ d → exec (.sub d r) s = .next t → exec (.sbc d1 r1) t = .next u →
      (((u.reg d1).toNat * 256 + (u.reg d).toNat : Nat) : Int) = ((x : Int) - y) % 65536 ∧
      u.flagC = decide (x < y) ∧ u.flagZ = decide (x = y)) ∧
    (d1 ≠ d → exec (.subi d k) s = .next t → exec (.sbci d1 k1) t = .next u →
      (((u.reg d1).toNat * 256 + (u.reg d).toNat : Nat) : Int) = ((x : Int) - c) % 65536 ∧
      u.flagC = decide (x < c) ∧ u.flagZ = decide (x = c)) ∧
    (exec (.cp d r) s = .next t → exec (.cpc d1 r1) t = .next u →
      u.flagC = decide (x < y) ∧ u.flagZ = decide (x = y))

/-- R242, R243, R246, R247, R250, R251: after CP Rd,Rr the named branches compare: BREQ, BRNE equality, BRLO, BRSH the unsigned
and BRLT, BRGE the signed order of the two registers. -/
def Obligations.BranchesAfterCompare : Prop :=
  ∀ (s t u : State) (d r : Reg) (k : BitVec 7) (i : Instr) (taken : Bool), exec (.cp d r) s = .next t →
    (i, taken) ∈
      [(Instr.breq k, decide (s.reg d = s.reg r)), (.brne k, decide (s.reg d ≠ s.reg r)),
       (.brlo k, decide ((s.reg d).toNat < (s.reg r).toNat)), (.brsh k, decide ((s.reg r).toNat ≤ (s.reg d).toNat)),
       (.brlt k, decide ((s.reg d).toInt < (s.reg r).toInt)), (.brge k, decide ((s.reg r).toInt ≤ (s.reg d).toInt))] →
    exec i t = .next u → u.pc = if taken then t.pcRelative k.toInt else t.pcAfter 1

/-! ### Logic, increments, products, moves, shifts -/

/-- R132: AND, ANDI, OR, ORI, EOR and their names SBR, CBR, TST, CLR write the logical result, clear V, set N, Z and S from the
result, and keep C, H and everything else. -/
def Obligations.LogicWritesResultAndFlags : Prop :=
  ∀ (s : State) (d r : Reg) (k : Byte) (i : Instr) (res : Byte),
    (i, res) ∈
      [(Instr.and d r, s.reg d &&& s.reg r), (.andi d k, s.reg d &&& k), (.or d r, s.reg d ||| s.reg r),
       (.ori d k, s.reg d ||| k), (.eor d r, s.reg d ^^^ s.reg r), (.sbr d k, s.reg d ||| k),
       (.cbr d k, s.reg d &&& (0xFF#8 - k)), (.tst d, s.reg d), (.clr d, 0#8)] →
    i.wf = true →
    ∃ t, exec i s = .next t ∧ t.reg d = res ∧
      t.flagV = false ∧ t.flagN = decide (128 ≤ res.toNat) ∧ t.flagZ = decide (res.toNat = 0) ∧ t.flagS = t.flagN ∧
      t.pc = s.pcAfter 1 ∧ keepsRest s t [d] [1#3, 2#3, 3#3, 4#3]

/-- R147, R151, R152: COM writes 0xFF less the register, sets C and clears V; INC and DEC add and subtract one, V marking the
signed overflow, and keep C and H; everything else is kept. -/
def Obligations.ComplementIncrementDecrement : Prop :=
  ∀ (s : State) (d : Reg),
    (∃ t, exec (.com d) s = .next t ∧ (t.reg d).toNat = 255 - (s.reg d).toNat ∧
      t.flagC = true ∧ t.flagV = false ∧ t.flagN = bit7 (t.reg d) ∧ t.flagZ = decide (s.reg d = 0xFF#8) ∧
      t.flagS = t.flagN ∧ t.pc = s.pcAfter 1 ∧ keepsRest s t [d] [0#3, 1#3, 2#3, 3#3, 4#3]) ∧
    (∃ t, exec (.inc d) s = .next t ∧ (t.reg d).toNat = ((s.reg d).toNat + 1) % 256 ∧
      t.flagV = decide ((s.reg d).toInt = 127) ∧ t.flagN = bit7 (t.reg d) ∧ t.flagZ = decide ((s.reg d).toNat = 255) ∧
      t.flagS = (t.flagN ^^ t.flagV) ∧ t.pc = s.pcAfter 1 ∧ keepsRest s t [d] [1#3, 2#3, 3#3, 4#3]) ∧
    (∃ t, exec (.dec d) s = .next t ∧ (t.reg d).toNat = ((s.reg d).toNat + 255) % 256 ∧
      t.flagV = decide ((s.reg d).toInt = -128) ∧ t.flagN = bit7 (t.reg d) ∧ t.flagZ = decide ((s.reg d).toNat = 1) ∧
      t.flagS = (t.flagN ^^ t.flagV) ∧ t.pc = s.pcAfter 1 ∧ keepsRest s t [d] [1#3, 2#3, 3#3, 4#3])

/-- R156, R157, R158: MUL, MULS, MULSU leave the exact product of the unsigned, the signed, the signed and the unsigned
operand in R1:R0, C its bit 15, Z whether it is zero, and keep everything else. -/
def Obligations.ProductsAreExact : Prop :=
  ∀ (s : State) (d r : Reg),
    (∃ t, exec (.mul d r) s = .next t ∧ (t.pair 0#5).toNat = (s.reg d).toNat * (s.reg r).toNat ∧
      t.flagC = (t.pair 0#5).getLsbD 15 ∧ t.flagZ = decide (t.pair 0#5 = 0#16) ∧
      t.pc = s.pcAfter 1 ∧ keepsRest s t [0#5, 1#5] [0#3, 1#3]) ∧
    (∃ t, exec (.muls d r) s = .next t ∧ (t.pair 0#5).toInt = (s.reg d).toInt * (s.reg r).toInt ∧
      t.flagC = (t.pair 0#5).getLsbD 15 ∧ t.flagZ = decide (t.pair 0#5 = 0#16) ∧
      t.pc = s.pcAfter 1 ∧ keepsRest s t [0#5, 1#5] [0#3, 1#3]) ∧
    (∃ t, exec (.mulsu d r) s = .next t ∧ (t.pair 0#5).toInt = (s.reg d).toInt * (s.reg r).toNat ∧
      t.flagC = (t.pair 0#5).getLsbD 15 ∧ t.flagZ = decide (t.pair 0#5 = 0#16) ∧
      t.pc = s.pcAfter 1 ∧ keepsRest s t [0#5, 1#5] [0#3, 1#3])

/-- R159, R160, R161: FMUL, FMULS, FMULSU leave twice the product modulo 65536 in R1:R0, C is bit 15 of the product before the
shift, Z whether the shifted result is zero; everything else is kept. -/
def Obligations.FractionalProductsAreDoubled : Prop :=
  ∀ (s : State) (d r : Reg) (i : Instr) (p : Int),
    (i, p) ∈
      [(Instr.fmul d r, ((s.reg d).toNat : Int) * (s.reg r).toNat), (.fmuls d r, (s.reg d).toInt * (s.reg r).toInt),
       (.fmulsu d r, (s.reg d).toInt * (s.reg r).toNat)] →
    ∃ t, exec i s = .next t ∧ ((t.pair 0#5).toNat : Int) = (2 * p) % 65536 ∧
      t.flagC = decide (32768 ≤ p % 65536) ∧ t.flagZ = decide ((2 * p) % 65536 = 0) ∧
      t.pc = s.pcAfter 1 ∧ keepsRest s t [0#5, 1#5] [0#3, 1#3]

/-- R171, R172, R173, R155, R277: MOV, MOVW, LDI, SER and SWAP write their register or pair, change no flag, and keep everything
else. -/
def Obligations.MovesAndSwapKeepFlags : Prop :=
  ∀ (s : State) (d r : Reg) (k : Byte),
    (∃ t, exec (.mov d r) s = .next t ∧ t.reg d = s.reg r ∧ t.pc = s.pcAfter 1 ∧ keepsRest s t [d] []) ∧
    (∃ t, exec (.movw d r) s = .next t ∧ t.pair d = s.pair r ∧ t.pc = s.pcAfter 1 ∧ keepsRest s t [d, d + 1#5] []) ∧
    (∃ t, exec (.ldi d k) s = .next t ∧ t.reg d = k ∧ t.pc = s.pcAfter 1 ∧ keepsRest s t [d] []) ∧
    (∃ t, exec (.ser d) s = .next t ∧ t.reg d = 0xFF#8 ∧ t.pc = s.pcAfter 1 ∧ keepsRest s t [d] []) ∧
    (∃ t, exec (.swap d) s = .next t ∧
      (t.reg d).toNat = (s.reg d).toNat % 16 * 16 + (s.reg d).toNat / 16 ∧
      t.pc = s.pcAfter 1 ∧ keepsRest s t [d] [])

/-- R273, R275, R276: LSR halves the unsigned value, ASR the signed value rounding down, ROR brings the old C in at bit 7; C is
the bit shifted out, N, Z from the result, V = N xor C, S = N xor V; everything else is kept. -/
def Obligations.RightShiftsAndRotate : Prop :=
  ∀ (s : State) (d : Reg) (i : Instr) (res : Byte),
    (i, res) ∈
      [(Instr.lsr d, BitVec.ofNat 8 ((s.reg d).toNat / 2)),
       (.ror d, BitVec.ofNat 8 (128 * s.flagC.toNat + (s.reg d).toNat / 2)),
       (.asr d, BitVec.ofInt 8 ((s.reg d).toInt / 2))] →
    ∃ t, exec i s = .next t ∧ t.reg d = res ∧
      t.flagC = decide ((s.reg d).toNat % 2 = 1) ∧ t.flagN = bit7 res ∧ t.flagZ = decide (res.toNat = 0) ∧
      t.flagV = (t.flagN ^^ t.flagC) ∧ t.flagS = (t.flagN ^^ t.flagV) ∧
      t.pc = s.pcAfter 1 ∧ keepsRest s t [d] [0#3, 1#3, 2#3, 3#3, 4#3]

/-! ### Flags and bits -/

/-- R278, R279, R282 to R297, R318: BSET and BCLR and their sixteen names set or clear exactly the flag with their number;
setting I from 0 sets the inhibit; everything else is kept. -/
def Obligations.FlagInstructionsWriteOneFlag : Prop :=
  ∀ (s : State) (m : BitVec 3) (i : Instr) (n : BitVec 3) (x : Bool),
    (i, n, x) ∈
      [(Instr.bset m, m, true), (.sec, 0#3, true), (.sez, 1#3, true), (.sen, 2#3, true), (.sev, 3#3, true),
       (.ses, 4#3, true), (.seh, 5#3, true), (.set, 6#3, true), (.sei, 7#3, true),
       (.bclr m, m, false), (.clc, 0#3, false), (.clz, 1#3, false), (.cln, 2#3, false), (.clv, 3#3, false),
       (.cls, 4#3, false), (.clh, 5#3, false), (.clt, 6#3, false), (.cli, 7#3, false)] →
    ∃ t, exec i s = .next t ∧ bitOf t.sreg n = x ∧ keepsFlags s t [n] ∧
      t.inhibit = (s.inhibit || (x && decide (n = 7#3) && !s.flagI)) ∧
      t.pc = s.pcAfter 1 ∧ keepsRegisters s t [] ∧ t.sp = s.sp ∧ keepsSpecial s t ∧ t.sleeping = s.sleeping ∧
      t.requests = s.requests ∧ keepsRam s t ∧ keepsProgram s t ∧ keepsPlatform s t

/-- R280, R281: BST copies bit b of the register to T, BLD copies T to bit b of the register and keeps its other bits;
everything else is kept. -/
def Obligations.BitStoreAndLoad : Prop :=
  ∀ (s : State) (r : Reg) (b : BitVec 3),
    (∃ t, exec (.bst r b) s = .next t ∧ t.flagT = bitOf (s.reg r) b ∧ t.pc = s.pcAfter 1 ∧ keepsRest s t [] [6#3]) ∧
    (∃ t, exec (.bld r b) s = .next t ∧ bitOf (t.reg r) b = s.flagT ∧
      (∀ n, n ≠ b → bitOf (t.reg r) n = bitOf (s.reg r) n) ∧ t.pc = s.pcAfter 1 ∧ keepsRest s t [r] [])

/-- R62, R63, R270, R271, R73: SBI and CBI read the platform location A + 0x20 once and write the byte back with bit b set or
cleared and its other bits kept, both as events (log 22); the byte read is this draw's free value (log 12); nothing else
changes. -/
def Obligations.IoBitReadModifyWrite : Prop :=
  ∀ (s : State) (a : BitVec 5) (b : BitVec 3) (i : Instr) (x : Bool),
    (i, x) ∈ [(Instr.sbi a b, true), (.cbi a b, false)] → a.toNat + 0x20 ≤ s.cfg.dataTop.toNat →
    ∃ t v, exec i s = .next t ∧ bitOf v b = x ∧ (∀ n, n ≠ b → bitOf v n = bitOf (Config.freeByte s.draws) n) ∧
      t.events = s.events ++ [.ioRead (BitVec.ofNat 16 (a.toNat + 0x20)) (Config.freeByte s.draws),
        .ioWrite (BitVec.ofNat 16 (a.toNat + 0x20)) v] ∧
      t.draws = s.draws + 1 ∧ t.pc = s.pcAfter 1 ∧ keepsRegisters s t [] ∧ keepsFlags s t [] ∧ t.sp = s.sp ∧
      keepsSpecial s t ∧ keepsInterrupts s t ∧ keepsRam s t ∧ keepsProgram s t

/-! ### MCU control -/

/-- R211, R213: NOP only advances the pc; WDR also records the event "WDR at pc". -/
def Obligations.NopAndWatchdogReset : Prop :=
  ∀ (s : State),
    (∃ t, exec .nop s = .next t ∧ t.pc = s.pcAfter 1 ∧ keepsRest s t [] []) ∧
    (∃ t, exec .wdr s = .next t ∧ t.pc = s.pcAfter 1 ∧ t.events = s.events ++ [.watchdogReset s.pc] ∧
      t.draws = s.draws ∧ keepsRegisters s t [] ∧ keepsFlags s t [] ∧ t.sp = s.sp ∧ keepsSpecial s t ∧
      keepsInterrupts s t ∧ keepsRam s t ∧ keepsProgram s t)

/-- R210, R212: BREAK and SLEEP under each of their settings: refused, a mere advance of the pc, or, for SLEEP, the advance and
the core asleep. Which setting is in force at reset is the model's choice (log 9, 10). -/
def Obligations.BreakAndSleepBySetting : Prop :=
  ∀ (s : State),
    (s.cfg.breakBehaviour = .refuse → exec .brk s = .refused .breakRefused) ∧
    (s.cfg.breakBehaviour = .nop → ∃ t, exec .brk s = .next t ∧ t.pc = s.pcAfter 1 ∧ keepsRest s t [] []) ∧
    (s.cfg.sleepBehaviour = .refuse → exec .sleep s = .refused .sleepRefused) ∧
    (s.cfg.sleepBehaviour = .nop → ∃ t, exec .sleep s = .next t ∧ t.pc = s.pcAfter 1 ∧ keepsRest s t [] []) ∧
    (s.cfg.sleepBehaviour = .wait → ∃ t, exec .sleep s = .next t ∧ t.pc = s.pcAfter 1 ∧ t.sleeping = true ∧
      t.inhibit = s.inhibit ∧ t.requests = s.requests ∧ keepsRegisters s t [] ∧ keepsFlags s t [] ∧ t.sp = s.sp ∧
      keepsSpecial s t ∧ keepsRam s t ∧ keepsProgram s t ∧ keepsPlatform s t)

/-- R190: SPM is refused in every state. -/
def Obligations.StoreProgramMemoryIsRefused : Prop := ∀ (s : State), exec .spm s = .refused .spmRefused

/-! ### Jumps, branches, skips -/

/-- R222 to R225: RJMP, IJMP, EIJMP and JMP go to pc + 1 + k, Z, EIND[5:0]:Z and k, modulo 2^PC_BITS, and change nothing
else. -/
def Obligations.JumpsSetThePc : Prop :=
  ∀ (s : State) (k12 : BitVec 12) (k22 : PcAddr) (i : Instr) (target : Int),
    (i, target) ∈
      [(Instr.rjmp k12, (s.pc.toNat : Int) + 1 + k12.toInt), (.ijmp, (s.z.toNat : Int)),
       (.eijmp, ((s.eind.toNat % 64 * 65536 + s.z.toNat : Nat) : Int)), (.jmp k22, (k22.toNat : Int))] →
    ∃ t, exec i s = .next t ∧ (t.pc.toNat : Int) = target % (2 ^ s.cfg.pcBits : Nat) ∧ keepsRest s t [] []

/-- R240 to R259: BRBS, BRBC and their eighteen names go to pc + 1 + k modulo 2^PC_BITS when their flag is set or clear, else to
pc + 1, and change nothing else. -/
def Obligations.BranchesTestOneFlag : Prop :=
  ∀ (s : State) (m : BitVec 3) (k : BitVec 7) (i : Instr) (taken : Bool),
    (i, taken) ∈
      [(Instr.brbs m k, bitOf s.sreg m), (.brbc m k, !bitOf s.sreg m),
       (.brcs k, s.flagC), (.brlo k, s.flagC), (.brcc k, !s.flagC), (.brsh k, !s.flagC),
       (.breq k, s.flagZ), (.brne k, !s.flagZ), (.brmi k, s.flagN), (.brpl k, !s.flagN),
       (.brvs k, s.flagV), (.brvc k, !s.flagV), (.brlt k, s.flagS), (.brge k, !s.flagS),
       (.brhs k, s.flagH), (.brhc k, !s.flagH), (.brts k, s.flagT), (.brtc k, !s.flagT),
       (.brie k, s.flagI), (.brid k, !s.flagI)] →
    ∃ t, exec i s = .next t ∧ t.pc = (if taken then s.pcRelative k.toInt else s.pcAfter 1) ∧ keepsRest s t [] []

/-- R221, R232, R236, R237: CPSE, SBRC and SBRS go past the whole following instruction, one word or two, when their condition
holds, else to pc + 1; they change nothing else. With the condition true and the following word outside FLASH_WORDS (its
bound: log 31) they fault. -/
def Obligations.RegisterSkips : Prop :=
  ∀ (s : State) (d r : Reg) (b : BitVec 3) (i : Instr) (cond : Bool),
    (i, cond) ∈
      [(Instr.cpse d r, decide (s.reg d = s.reg r)), (.sbrc r b, !bitOf (s.reg r) b), (.sbrs r b, bitOf (s.reg r) b)] →
    ((cond = true → (s.pcAfter 1).toNat < s.cfg.programWords) →
      ∃ t, exec i s = .next t ∧ keepsRest s t [] [] ∧
        t.pc = s.pcAfter (if cond then (if isTwoWord s.followingWord then 3 else 2) else 1)) ∧
    (cond = true → s.cfg.programWords ≤ (s.pcAfter 1).toNat →
      exec i s = .fault (.programOutside (s.pcAfter 1).toNat))

/-- R221, R238, R239, R63: SBIC and SBIS read the platform location A + 0x20 once, as an event (log 22), and skip when bit b of
that byte is clear, or set; the byte is this draw's free value (log 12); they change nothing else. With the condition true and
the following word outside FLASH_WORDS (its bound: log 31) they fault. -/
def Obligations.IoBitSkips : Prop :=
  ∀ (s : State) (a : BitVec 5) (b : BitVec 3) (i : Instr) (cond : Bool),
    (i, cond) ∈
      [(Instr.sbic a b, !bitOf (Config.freeByte s.draws) b), (.sbis a b, bitOf (Config.freeByte s.draws) b)] →
    a.toNat + 0x20 ≤ s.cfg.dataTop.toNat →
    ((cond = true → (s.pcAfter 1).toNat < s.cfg.programWords) →
      ∃ t, exec i s = .next t ∧
        t.pc = s.pcAfter (if cond then (if isTwoWord s.followingWord then 3 else 2) else 1) ∧
        t.draws = s.draws + 1 ∧
        t.events = s.events ++ [.ioRead (BitVec.ofNat 16 (a.toNat + 0x20)) (Config.freeByte s.draws)] ∧
        keepsRegisters s t [] ∧ keepsFlags s t [] ∧ t.sp = s.sp ∧ keepsSpecial s t ∧ keepsInterrupts s t ∧
        keepsRam s t ∧ keepsProgram s t) ∧
    (cond = true → s.cfg.programWords ≤ (s.pcAfter 1).toNat →
      exec i s = .fault (.programOutside (s.pcAfter 1).toNat))

/-! ### Loads and stores -/

/-- R62, R63, R64, R75: what lies at each data address, by its number: nothing above DATA_TOP; the registers below 0x20;
RAMPZ, EIND, SPL, SPH, SREG at 0x5B to 0x5F (SREG's a platform location where R43's parameter is "none"); the other addresses
below 0x60 and those up to the RAM start the platform's; RAM from there. That the bound DATA_TOP goes before every other row
and the register window before the I/O rows is the model's choice (log 7); it shows for a DATA_TOP below 0x60. -/
def Obligations.DataAddressMap : Prop :=
  ∀ (c : Config) (a : Word),
    placeOf c a =
      if c.dataTop.toNat < a.toNat then .outside
      else if a.toNat < 0x20 then
        (if c.regsInDataSpace then .register (BitVec.ofNat 5 a.toNat) else .noWindow)
      else if a.toNat = 0x5B then .rampz
      else if a.toNat = 0x5C then .eind
      else if a.toNat = 0x5D then .spl
      else if a.toNat = 0x5E then .sph
      else if a.toNat = 0x5F then (if c.sregInIo then .sreg else .platform)
      else if a.toNat < 0x60 ∨ a.toNat < c.ramStart.toNat then .platform
      else .ram

/-- R174, R175, R178, R191: LDS, LD without change of the pointer, LDD and IN load the byte their address shows (with a draw
and an event where R63 says so), the address being k, the pointer, the pointer plus q modulo 2^16, or A + 0x20; a platform
location shows this draw's free value (log 12), an unwritten RAM byte under UNWRITTEN_READ = draw the free value of its address
(log 6); the events' form is log 22; everything else is kept. -/
def Obligations.LoadsReadTheirAddress : Prop :=
  ∀ (s : State) (d : Reg) (k : Word) (q a6 : BitVec 6) (v : Byte) (i : Instr) (a : Word) (words : Nat),
    (i, a, words) ∈
      [(Instr.lds d k, k, 2), (.ldX d, s.pair 26#5, 1), (.ldY d, s.pair 28#5, 1), (.ldZ d, s.pair 30#5, 1),
       (.lddY d q, BitVec.ofNat 16 ((s.pair 28#5).toNat + q.toNat), 1),
       (.lddZ d q, BitVec.ofNat 16 ((s.pair 30#5).toNat + q.toNat), 1),
       (.ioIn d a6, BitVec.ofNat 16 (a6.toNat + 0x20), 1)] →
    pointerHazard i = false → (needsXY i = true → s.cfg.hasXY = true) → s.seen a = some v →
    ∃ t, exec i s = .next t ∧ t.reg d = v ∧ t.pc = s.pcAfter words ∧ t.sp = s.sp ∧ keepsRestButRead s s t a [d]

/-- R176: LD with post-increment loads the byte at the pointer and leaves the pointer plus one modulo 2^16; everything else is
kept. What a platform location and an unwritten RAM byte show, and the draws and events of the read, are the model's own (log
12, 6, 22). -/
def Obligations.LoadsWithPostIncrement : Prop :=
  ∀ (s : State) (d : Reg) (v : Byte) (i : Instr) (p : Pointer),
    (i, p) ∈ [(Instr.ldXInc d, Pointer.x), (.ldYInc d, .y), (.ldZInc d, .z)] →
    pointerHazard i = false → (needsXY i = true → s.cfg.hasXY = true) → s.seen (s.pointer p) = some v →
    ∃ t, exec i s = .next t ∧ t.reg d = v ∧ t.pointer p = s.pointer p + 1#16 ∧ t.pc = s.pcAfter 1 ∧ t.sp = s.sp ∧
      keepsRestButRead s s t (s.pointer p) [d, p.lo, p.lo + 1#5]

/-- R177: LD with pre-decrement leaves the pointer minus one modulo 2^16 and loads the byte there, as the state with the new
pointer shows it; everything else is kept. What a platform location and an unwritten RAM byte show, and the draws and events of
the read, are the model's own (log 12, 6, 22). -/
def Obligations.LoadsWithPreDecrement : Prop :=
  ∀ (s : State) (d : Reg) (v : Byte) (i : Instr) (p : Pointer),
    (i, p) ∈ [(Instr.ldXDec d, Pointer.x), (.ldYDec d, .y), (.ldZDec d, .z)] →
    pointerHazard i = false → (needsXY i = true → s.cfg.hasXY = true) →
    (s.setPair p.lo (s.pointer p - 1#16)).seen (s.pointer p - 1#16) = some v →
    ∃ t, exec i s = .next t ∧ t.reg d = v ∧ t.pointer p = s.pointer p - 1#16 ∧ t.pc = s.pcAfter 1 ∧ t.sp = s.sp ∧
      keepsRestButRead (s.setPair p.lo (s.pointer p - 1#16)) s t (s.pointer p - 1#16) [d, p.lo, p.lo + 1#5]

/-- R179, R180, R183, R192: STS, ST without change of the pointer, STD and OUT store their register at their address, wherever
that address lies in the map; no RAM byte but that one changes. What each store leaves is `storesByte` (the inhibit: log 18;
the events: log 22). -/
def Obligations.StoresWriteTheirAddress : Prop :=
  ∀ (s : State) (r : Reg) (k : Word) (q a6 : BitVec 6) (i : Instr) (a : Word) (words : Nat),
    (i, a, words) ∈
      [(Instr.sts k r, k, 2), (.stX r, s.pair 26#5, 1), (.stY r, s.pair 28#5, 1), (.stZ r, s.pair 30#5, 1),
       (.stdY q r, BitVec.ofNat 16 ((s.pair 28#5).toNat + q.toNat), 1),
       (.stdZ q r, BitVec.ofNat 16 ((s.pair 30#5).toNat + q.toNat), 1),
       (.ioOut a6 r, BitVec.ofNat 16 (a6.toNat + 0x20), 1)] →
    pointerHazard i = false → (needsXY i = true → s.cfg.hasXY = true) → s.writable a →
    ∃ t, exec i s = .next t ∧ storesByte s t a (s.reg r) ∧ (∀ n, t.reg n = s.regAfterStore a (s.reg r) n) ∧
      t.sp = s.spAfterStore a (s.reg r) ∧ t.draws = s.draws ∧ t.pc = s.pcAfter words

/-- R181: ST with post-increment stores at the pointer, then leaves the old pointer plus one in it, even where the store
landed on the pointer's own registers. -/
def Obligations.StoresWithPostIncrement : Prop :=
  ∀ (s : State) (r : Reg) (i : Instr) (p : Pointer),
    (i, p) ∈ [(Instr.stXInc r, Pointer.x), (.stYInc r, .y), (.stZInc r, .z)] →
    pointerHazard i = false → (needsXY i = true → s.cfg.hasXY = true) → s.writable (s.pointer p) →
    ∃ t, exec i s = .next t ∧ storesByte s t (s.pointer p) (s.reg r) ∧ t.pointer p = s.pointer p + 1#16 ∧
      (∀ n, n ≠ p.lo → n ≠ p.lo + 1#5 → t.reg n = s.regAfterStore (s.pointer p) (s.reg r) n) ∧
      t.sp = s.spAfterStore (s.pointer p) (s.reg r) ∧ t.draws = s.draws ∧ t.pc = s.pcAfter 1

/-- R182: ST with pre-decrement leaves the pointer minus one in it and stores there; a store that lands on the pointer's own
registers overwrites them. -/
def Obligations.StoresWithPreDecrement : Prop :=
  ∀ (s : State) (r : Reg) (i : Instr) (p : Pointer),
    (i, p) ∈ [(Instr.stXDec r, Pointer.x), (.stYDec r, .y), (.stZDec r, .z)] →
    pointerHazard i = false → (needsXY i = true → s.cfg.hasXY = true) → s.writable (s.pointer p - 1#16) →
    let a := s.pointer p - 1#16
    let u := s.setPair p.lo a
    ∃ t, exec i s = .next t ∧ storesByte s t a (s.reg r) ∧ (∀ n, t.reg n = u.regAfterStore a (s.reg r) n) ∧
      t.sp = s.spAfterStore a (s.reg r) ∧ t.draws = s.draws ∧ t.pc = s.pcAfter 1

/-- R184 to R189, R67, R75: LPM and ELPM load the byte of the program word at half their byte address Z or RAMPZ:Z, low byte
for an even address, high byte for an odd one; the Z+ forms leave Z plus one modulo 2^16; everything else is kept. At a word
address at or above FLASH_WORDS they fault (R75; its bound: R61, log 31). ELPM Rd,Z+ at Z = 0xFFFF is stated apart. A byte
outside the loaded program shows 0xFF, the model's choice (log 8). -/
def Obligations.ProgramLoadsReadTheirByte : Prop :=
  ∀ (s : State) (d0 : Reg) (i : Instr) (d : Reg) (ba : Nat) (inc : Bool),
    (i, d, ba, inc) ∈
      [(Instr.lpm, 0#5, s.z.toNat, false), (.lpmZ d0, d0, s.z.toNat, false), (.lpmZInc d0, d0, s.z.toNat, true),
       (.elpm, 0#5, s.rampz.toNat * 65536 + s.z.toNat, false),
       (.elpmZ d0, d0, s.rampz.toNat * 65536 + s.z.toNat, false),
       (.elpmZInc d0, d0, s.rampz.toNat * 65536 + s.z.toNat, true)] →
    pointerHazard i = false → (i = .elpmZInc d → s.z ≠ 0xFFFF#16) →
    (ba / 2 < s.cfg.programWords →
      ∃ t, exec i s = .next t ∧
        t.reg d = (if ba % 2 = 0 then lowByte (s.programWord (ba / 2)) else highByte (s.programWord (ba / 2))) ∧
        t.z = (if inc then s.z + 1#16 else s.z) ∧ t.pc = s.pcAfter 1 ∧
        keepsRest s t (if inc then [d, 30#5, 31#5] else [d]) []) ∧
    (s.cfg.programWords ≤ ba / 2 → exec i s = .fault (.programOutside (ba / 2)))

/-- R13, R193, R194: PUSH stores its register at SP and leaves SP minus one; POP leaves SP plus one and loads the byte there;
everything else is kept. Where PUSH lands on SP's own bytes the store comes first (log 17); the inhibit after a PUSH onto SREG
is log 18; the byte POP finds at a platform location or in unwritten RAM is a free value (log 12, 6); the events' form is log
22. -/
def Obligations.PushAndPop : Prop :=
  ∀ (s : State) (r : Reg),
    (s.writable s.sp →
      ∃ t, exec (.push r) s = .next t ∧ storesByte s t s.sp (s.reg r) ∧ (∀ n, t.reg n = s.regAfterStore s.sp (s.reg r) n) ∧
        t.sp = s.spAfterStore s.sp (s.reg r) - 1#16 ∧ t.draws = s.draws ∧ t.pc = s.pcAfter 1) ∧
    (∀ v, (s.setSp (s.sp + 1#16)).seen (s.sp + 1#16) = some v →
      ∃ t, exec (.pop r) s = .next t ∧ t.reg r = v ∧ t.sp = s.sp + 1#16 ∧ t.pc = s.pcAfter 1 ∧
        keepsRestButRead (s.setSp (s.sp + 1#16)) s t (s.sp + 1#16) [r])

/-- R77, R62, R73: a RAM byte reads back as it was written, every other RAM byte is left alone, and a second write of a byte
leaves what it alone would have left; RAM stays in canonical form. The read of any address but a platform location changes
nothing, so that a second one answers the same byte, a RAM byte nothing has written included (log 6). -/
def Obligations.RamReadsBackAsWritten : Prop :=
  ∀ (s : State) (a : Word) (v w : Byte),
    (placeOf s.cfg a = .ram →
      ∃ t u, memWrite s a v = .next t ∧ memRead t a = .next (v, t) ∧
        (∀ b, b ≠ a → t.ramByte b = s.ramByte b) ∧ (Memory.wf ramBlank s.ram → Memory.wf ramBlank t.ram) ∧
        memWrite t a w = .next u ∧ memWrite s a w = .next u) ∧
    (∀ t, placeOf s.cfg a ≠ .platform → memRead s a = .next (v, t) → t = s)

/-! ### Calls, returns, interrupts -/

/-- R220, R226 to R229: RCALL, ICALL, EICALL and CALL push the address of the following instruction by PushPC and then go to
their target, computed before the pushes, wherever SP points (on SP's own bytes: log 17); a push that stops stops the call. -/
def Obligations.CallsPushThenJump : Prop :=
  ∀ (s : State) (k12 : BitVec 12) (k22 : PcAddr) (i : Instr) (n : Nat) (target : Int),
    (i, n, target) ∈
      [(Instr.rcall k12, 1, (s.pc.toNat : Int) + 1 + k12.toInt), (.icall, 1, (s.z.toNat : Int)),
       (.eicall, 1, ((s.eind.toNat % 64 * 65536 + s.z.toNat : Nat) : Int)), (.call k22, 2, (k22.toNat : Int))] →
    exec i s = andThen (pushPc s (s.pcAfter n)) fun u =>
      .next { u with pc := BitVec.ofNat 22 (target % (2 ^ s.cfg.pcBits : Nat)).toNat }

/-- R69, R220, R226 to R229: with room on a stack in RAM, RCALL, ICALL, EICALL and CALL complete: the return address lies on the
stack least significant byte highest, SP is less by PCBYTES, the pc is the target, and everything else is kept. -/
def Obligations.CallsLeaveReturnAddressOnStack : Prop :=
  ∀ (s : State) (k12 : BitVec 12) (k22 : PcAddr) (i : Instr) (n : Nat) (target : Int),
    (i, n, target) ∈
      [(Instr.rcall k12, 1, (s.pc.toNat : Int) + 1 + k12.toInt), (.icall, 1, (s.z.toNat : Int)),
       (.eicall, 1, ((s.eind.toNat % 64 * 65536 + s.z.toNat : Nat) : Int)), (.call k22, 2, (k22.toNat : Int))] →
    s.pushRoom →
    ∃ t, exec i s = .next t ∧ (t.pc.toNat : Int) = target % (2 ^ s.cfg.pcBits : Nat) ∧ pushesReturn s t (s.pcAfter n) ∧
      keepsRegisters s t [] ∧ keepsFlags s t [] ∧ keepsSpecial s t ∧ keepsInterrupts s t ∧ keepsProgram s t ∧
      keepsPlatform s t

/-- R69, R230, R231, R318, R319: RET and RETI go to the address h:m:l modulo 2^PC_BITS that lies above SP, most significant byte
lowest, and leave SP more by PCBYTES; RETI also sets I, with the inhibit when I was 0; everything else is kept. -/
def Obligations.ReturnsPopThePc : Prop :=
  ∀ (s : State) (h m l : Byte) (i : Instr) (interrupt : Bool),
    (i, interrupt) ∈ [(Instr.ret, false), (.reti, true)] → stackShows s h m l →
    ∃ t, exec i s = .next t ∧
      t.pc.toNat = (h.toNat * 65536 + m.toNat * 256 + l.toNat) % 2 ^ s.cfg.pcBits ∧
      t.sp = s.sp + BitVec.ofNat 16 s.cfg.pcBytes ∧ keepsFlags s t [7#3] ∧ t.flagI = (s.flagI || interrupt) ∧
      t.inhibit = (s.inhibit || (interrupt && !s.flagI)) ∧ t.sleeping = s.sleeping ∧ t.requests = s.requests ∧
      keepsRegisters s t [] ∧ keepsSpecial s t ∧ keepsRam s t ∧ keepsProgram s t ∧ keepsPlatform s t

/-- R220, R230: after a call, once the called code has brought SP back and left the return address alone, RET goes to the
instruction after the call and SP is as before the call. -/
def Obligations.CallThenReturnComesBack : Prop :=
  ∀ (s t u : State) (k12 : BitVec 12) (k22 : PcAddr) (i : Instr) (n : Nat),
    (i, n) ∈ [(Instr.rcall k12, 1), (.icall, 1), (.eicall, 1), (.call k22, 2)] →
    s.pushRoom → exec i s = .next t →
    u.cfg = t.cfg → u.sp = t.sp →
    (∀ j, j < s.cfg.pcBytes → u.ramByte (s.sp - BitVec.ofNat 16 j) = t.ramByte (s.sp - BitVec.ofNat 16 j)) →
    ∃ w, exec .ret u = .next w ∧ w.pc = s.pcAfter n ∧ w.sp = s.sp ∧ keepsRegisters u w [] ∧ keepsFlags u w []

/-- R314, R315, R321: an interrupt is taken at a boundary exactly when I = 1, the inhibit is clear and a source of IRQ_SOURCES
requests; the one taken is the first of the list that does; the step then is its entry. The form of the requests is the
model's (log 13, 27). -/
def Obligations.InterruptTakenWhenAllowed : Prop :=
  ∀ (s : State) (src : IrqSource),
    (pendingInterrupt s = some src ↔ s.flagI = true ∧ s.inhibit = false ∧
      ∃ before after, s.cfg.irqSources = before ++ src :: after ∧ src.name ∈ s.presented ∧
        ∀ x ∈ before, x.name ∉ s.presented) ∧
    (pendingInterrupt s = some src → step s = takeInterrupt src s.passBoundary)

/-- R316, R69: with room on a stack in RAM, interrupt entry pushes pc, clears I alone of the flags, goes to the source's vector,
records the event, and ends a sleep (log 25); registers, RAMPZ, EIND and every other RAM byte are kept. -/
def Obligations.InterruptEntryEffect : Prop :=
  ∀ (s : State) (src : IrqSource), s.pushRoom →
    ∃ t, takeInterrupt src s = .next t ∧ pushesReturn s t s.pc ∧ t.flagI = false ∧ keepsFlags s t [7#3] ∧
      t.pc.toNat = src.vector.toNat % 2 ^ s.cfg.pcBits ∧ t.events = s.events ++ [.interruptTaken src.name] ∧
      t.sleeping = false ∧ keepsRegisters s t [] ∧ keepsSpecial s t ∧ t.inhibit = s.inhibit ∧
      t.requests = s.requests ∧ t.draws = s.draws ∧ keepsProgram s t

/-- R318: an instruction that changes I from 0 to 1 sets the inhibit; every other one, that leaves I as it is, clears it or sets
it when it was 1, leaves the inhibit clear; and while the inhibit is set no interrupt is taken. Stores to SREG by a push are
among them (log 18). -/
def Obligations.InhibitForOneInstruction : Prop :=
  ∀ (s t : State), pendingInterrupt s = none → s.sleeping = false → step s = .next t →
    (s.flagI = false → t.flagI = true → t.inhibit = true) ∧
    (s.flagI = true ∨ t.flagI = false → t.inhibit = false) ∧
    (t.inhibit = true → ∀ requests, pendingInterrupt { t with requests := requests } = none)

/-- R316, R319: after an interrupt entry, once the handler has brought SP back and left the return address alone, RETI goes to
the interrupted address, SP is as before, I is 1 and the inhibit is set. -/
def Obligations.HandlerReturnsToInterruptedCode : Prop :=
  ∀ (s t u : State) (src : IrqSource), s.pc.toNat < 2 ^ s.cfg.pcBits → s.pushRoom → takeInterrupt src s = .next t →
    u.cfg = t.cfg → u.sp = t.sp → u.flagI = false →
    (∀ j, j < s.cfg.pcBytes → u.ramByte (s.sp - BitVec.ofNat 16 j) = t.ramByte (s.sp - BitVec.ofNat 16 j)) →
    ∃ w, exec .reti u = .next w ∧ w.pc = s.pc ∧ w.sp = s.sp ∧ w.flagI = true ∧ w.inhibit = true ∧
      keepsRegisters u w [] ∧ keepsFlags u w [7#3]

/-- R212, R328: a sleeping core takes an interrupt that is pending; while none is and one can still come it makes no change but
to use up the boundary's requests; and where none can come (I = 0, IRQ_SOURCES empty, no request to come that names a source)
the run ends there, under its own name and not as a fault. The wait as a step that repeats, the name of its end, and a set
inhibit as a bar to waking are the model's form (log 10), as the requests to come are (log 13). -/
def Obligations.SleepWaitsForInterrupt : Prop :=
  ∀ (s : State), s.sleeping = true →
    (∀ src t, pendingInterrupt s = some src → step s = .next t → t.sleeping = false ∧
      t.pc.toNat = src.vector.toNat % 2 ^ s.cfg.pcBits) ∧
    (pendingInterrupt s = none → s.flagI = true → s.inhibit = false →
      (∃ requesting ∈ s.requests, ∃ src ∈ s.cfg.irqSources, src.name ∈ requesting) →
      step s = .next { s with requests := s.requests.tail }) ∧
    (s.flagI = false ∨ s.inhibit = true ∨ s.cfg.irqSources = [] ∨
        (∀ requesting ∈ s.requests, ∀ src ∈ s.cfg.irqSources, src.name ∉ requesting) →
      step s = .refused .waitNeverEnds)

/-! ### Where runs stop, and what only some instructions change -/

/-- R170: every indirect load, store, LPM and ELPM whose data register is one of its pointer's two faults, in every state
where no refusal comes first (R321; log 15); the refusal of an address below 0x20 does not (log 30). -/
def Obligations.PointerAsOperandFaults : Prop :=
  ∀ (i : Instr) (s : State), pointerHazard i = true → (needsXY i = true → s.cfg.hasXY = true) →
    (∀ d, i = .elpmZInc d → s.z ≠ 0xFFFF#16) → exec i s = .fault .pointerAsOperand

/-- R195: with HAS_XY = false every form of LD, ST, LDD, STD through X or Y is refused. -/
def Obligations.ZOnlyCoreRefusesXAndY : Prop :=
  ∀ (i : Instr) (s : State), needsXY i = true → s.cfg.hasXY = false → exec i s = .refused .pointerXYAbsent

/-- R189: ELPM Rd,Z+ at Z = 0xFFFF is refused (log 16). For Rd = R30 or R31 that the refusal comes before the note 7 fault is
the model's choice, R321's order against R189's own (log 15). -/
def Obligations.ElpmCarryIsRefused : Prop :=
  ∀ (s : State) (d : Reg), s.z = 0xFFFF#16 → exec (.elpmZInc d) s = .refused .elpmCarry

/-- R75, R64, R47: an instruction that gets as far as its accesses stops at an address it reads or stores to (LDS, STS, LD,
LDD, ST, STD, IN, OUT, SBI, CBI, SBIC, SBIS, PUSH, POP, the calls, RET, RETI): above DATA_TOP it faults, below 0x20 without
the register window it is refused, and it faults at the read of an unwritten RAM byte under UNWRITTEN_READ = fault; an
interrupt entry stops at its pushes in the same way. That the bound goes before the window is log 7, that the window's refusal
comes with its access and after note 7 is log 30, and where a push lands on SP's own bytes the next one's address is log 17.
-/
def Obligations.AccessesOutsideStop : Prop :=
  ∀ (i : Instr) (s : State) (a : Word) (src : IrqSource),
    (reachesAccess i s → a ∈ loadAddresses i s ∨ a ∈ storeAddresses i s →
      (s.cfg.dataTop.toNat < a.toNat → exec i s = .fault (.dataOutside a)) ∧
      (s.inAbsentWindow a → exec i s = .refused .dataBelow0x20)) ∧
    (reachesAccess i s → a ∈ loadAddresses i s → s.unreadable a → exec i s = .fault (.unwrittenRead a)) ∧
    (a ∈ pushAddresses s s.pc →
      (s.cfg.dataTop.toNat < a.toNat → takeInterrupt src s = .fault (.dataOutside a)) ∧
      (s.inAbsentWindow a → takeInterrupt src s = .refused .dataBelow0x20))

/-- R311: an instruction faults or is refused only for a cause of the rule's table, and an access fault or refusal only for an
address that this instruction itself reads, stores to or reads program memory at. -/
def Obligations.EveryStopHasItsCause : Prop :=
  ∀ (i : Instr) (s : State),
    (∀ f, exec i s = .fault f → f.cause i s) ∧ (∀ r, exec i s = .refused r → r.cause i s)

/-- R65, R71: an instruction changes no RAM byte but at the addresses it stores to, for every instruction. -/
def Obligations.OnlyStoresChangeRam : Prop :=
  ∀ (i : Instr) (s t : State) (a : Word), exec i s = .next t → a ∉ storeAddresses i s → t.ramByte a = s.ramByte a

/-- R314, R41, R42: I goes from 0 to 1 only by BSET 7, SEI, RETI or a store at 0x5F; RAMPZ and EIND change only by a store at
0x5B and 0x5C. -/
def Obligations.OnlyNamedInstructionsChangeControl : Prop :=
  ∀ (i : Instr) (s t : State), exec i s = .next t →
    (s.flagI = false → t.flagI = true →
      i = .bset 7#3 ∨ i = .sei ∨ i = .reti ∨ 0x5F#16 ∈ storeAddresses i s) ∧
    (t.rampz ≠ s.rampz → 0x5B#16 ∈ storeAddresses i s) ∧ (t.eind ≠ s.eind → 0x5C#16 ∈ storeAddresses i s)
end

