-- ==== Sys2Proof/Laws/State.lean ====
section
/-! SUPPORT. What each field of the state is after each update: one lemma per field per update, and the general registers and
flags read back. -/

namespace Sys2Proof.Machine

/-! ### setReg -/

@[simp] theorem State.setReg_cfg (s : State) (r : Reg) (v : Byte) : (s.setReg r v).cfg = s.cfg := rfl
@[simp] theorem State.setReg_regs (s : State) (r : Reg) (v : Byte) : (s.setReg r v).regs = s.regs.set r.toNat v r.isLt := rfl
@[simp] theorem State.setReg_pc (s : State) (r : Reg) (v : Byte) : (s.setReg r v).pc = s.pc := rfl
@[simp] theorem State.setReg_sreg (s : State) (r : Reg) (v : Byte) : (s.setReg r v).sreg = s.sreg := rfl
@[simp] theorem State.setReg_sp (s : State) (r : Reg) (v : Byte) : (s.setReg r v).sp = s.sp := rfl
@[simp] theorem State.setReg_rampz (s : State) (r : Reg) (v : Byte) : (s.setReg r v).rampz = s.rampz := rfl
@[simp] theorem State.setReg_eind (s : State) (r : Reg) (v : Byte) : (s.setReg r v).eind = s.eind := rfl
@[simp] theorem State.setReg_ram (s : State) (r : Reg) (v : Byte) : (s.setReg r v).ram = s.ram := rfl
@[simp] theorem State.setReg_flash (s : State) (r : Reg) (v : Byte) : (s.setReg r v).flash = s.flash := rfl
@[simp] theorem State.setReg_inhibit (s : State) (r : Reg) (v : Byte) : (s.setReg r v).inhibit = s.inhibit := rfl
@[simp] theorem State.setReg_sleeping (s : State) (r : Reg) (v : Byte) : (s.setReg r v).sleeping = s.sleeping := rfl
@[simp] theorem State.setReg_requests (s : State) (r : Reg) (v : Byte) : (s.setReg r v).requests = s.requests := rfl
@[simp] theorem State.setReg_draws (s : State) (r : Reg) (v : Byte) : (s.setReg r v).draws = s.draws := rfl
@[simp] theorem State.setReg_events (s : State) (r : Reg) (v : Byte) : (s.setReg r v).events = s.events := rfl
@[simp] theorem State.setReg_flagC (s : State) (r : Reg) (v : Byte) : (s.setReg r v).flagC = s.flagC := rfl
@[simp] theorem State.setReg_flagZ (s : State) (r : Reg) (v : Byte) : (s.setReg r v).flagZ = s.flagZ := rfl
@[simp] theorem State.setReg_flagN (s : State) (r : Reg) (v : Byte) : (s.setReg r v).flagN = s.flagN := rfl
@[simp] theorem State.setReg_flagV (s : State) (r : Reg) (v : Byte) : (s.setReg r v).flagV = s.flagV := rfl
@[simp] theorem State.setReg_flagS (s : State) (r : Reg) (v : Byte) : (s.setReg r v).flagS = s.flagS := rfl
@[simp] theorem State.setReg_flagH (s : State) (r : Reg) (v : Byte) : (s.setReg r v).flagH = s.flagH := rfl
@[simp] theorem State.setReg_flagT (s : State) (r : Reg) (v : Byte) : (s.setReg r v).flagT = s.flagT := rfl
@[simp] theorem State.setReg_flagI (s : State) (r : Reg) (v : Byte) : (s.setReg r v).flagI = s.flagI := rfl
@[simp] theorem State.setReg_ramByte (s : State) (r : Reg) (v : Byte) (a : Word) : (s.setReg r v).ramByte a = s.ramByte a := rfl
@[simp] theorem State.setReg_flashByte (s : State) (r : Reg) (v : Byte) (ba : Nat) : (s.setReg r v).flashByte ba = s.flashByte ba := rfl

/-! ### setPair -/

@[simp] theorem State.setPair_cfg (s : State) (r : Reg) (v : Word) : (s.setPair r v).cfg = s.cfg := rfl
@[simp] theorem State.setPair_pc (s : State) (r : Reg) (v : Word) : (s.setPair r v).pc = s.pc := rfl
@[simp] theorem State.setPair_sreg (s : State) (r : Reg) (v : Word) : (s.setPair r v).sreg = s.sreg := rfl
@[simp] theorem State.setPair_sp (s : State) (r : Reg) (v : Word) : (s.setPair r v).sp = s.sp := rfl
@[simp] theorem State.setPair_rampz (s : State) (r : Reg) (v : Word) : (s.setPair r v).rampz = s.rampz := rfl
@[simp] theorem State.setPair_eind (s : State) (r : Reg) (v : Word) : (s.setPair r v).eind = s.eind := rfl
@[simp] theorem State.setPair_ram (s : State) (r : Reg) (v : Word) : (s.setPair r v).ram = s.ram := rfl
@[simp] theorem State.setPair_flash (s : State) (r : Reg) (v : Word) : (s.setPair r v).flash = s.flash := rfl
@[simp] theorem State.setPair_inhibit (s : State) (r : Reg) (v : Word) : (s.setPair r v).inhibit = s.inhibit := rfl
@[simp] theorem State.setPair_sleeping (s : State) (r : Reg) (v : Word) : (s.setPair r v).sleeping = s.sleeping := rfl
@[simp] theorem State.setPair_requests (s : State) (r : Reg) (v : Word) : (s.setPair r v).requests = s.requests := rfl
@[simp] theorem State.setPair_draws (s : State) (r : Reg) (v : Word) : (s.setPair r v).draws = s.draws := rfl
@[simp] theorem State.setPair_events (s : State) (r : Reg) (v : Word) : (s.setPair r v).events = s.events := rfl
@[simp] theorem State.setPair_flagC (s : State) (r : Reg) (v : Word) : (s.setPair r v).flagC = s.flagC := rfl
@[simp] theorem State.setPair_flagZ (s : State) (r : Reg) (v : Word) : (s.setPair r v).flagZ = s.flagZ := rfl
@[simp] theorem State.setPair_flagN (s : State) (r : Reg) (v : Word) : (s.setPair r v).flagN = s.flagN := rfl
@[simp] theorem State.setPair_flagV (s : State) (r : Reg) (v : Word) : (s.setPair r v).flagV = s.flagV := rfl
@[simp] theorem State.setPair_flagS (s : State) (r : Reg) (v : Word) : (s.setPair r v).flagS = s.flagS := rfl
@[simp] theorem State.setPair_flagH (s : State) (r : Reg) (v : Word) : (s.setPair r v).flagH = s.flagH := rfl
@[simp] theorem State.setPair_flagT (s : State) (r : Reg) (v : Word) : (s.setPair r v).flagT = s.flagT := rfl
@[simp] theorem State.setPair_flagI (s : State) (r : Reg) (v : Word) : (s.setPair r v).flagI = s.flagI := rfl
@[simp] theorem State.setPair_ramByte (s : State) (r : Reg) (v : Word) (a : Word) : (s.setPair r v).ramByte a = s.ramByte a := rfl
@[simp] theorem State.setPair_flashByte (s : State) (r : Reg) (v : Word) (ba : Nat) : (s.setPair r v).flashByte ba = s.flashByte ba := rfl

/-! ### setPc -/

@[simp] theorem State.setPc_cfg (s : State) (v : PcAddr) : (s.setPc v).cfg = s.cfg := rfl
@[simp] theorem State.setPc_regs (s : State) (v : PcAddr) : (s.setPc v).regs = s.regs := rfl
@[simp] theorem State.setPc_pc (s : State) (v : PcAddr) : (s.setPc v).pc = wrapPc s.cfg v := rfl
@[simp] theorem State.setPc_sreg (s : State) (v : PcAddr) : (s.setPc v).sreg = s.sreg := rfl
@[simp] theorem State.setPc_sp (s : State) (v : PcAddr) : (s.setPc v).sp = s.sp := rfl
@[simp] theorem State.setPc_rampz (s : State) (v : PcAddr) : (s.setPc v).rampz = s.rampz := rfl
@[simp] theorem State.setPc_eind (s : State) (v : PcAddr) : (s.setPc v).eind = s.eind := rfl
@[simp] theorem State.setPc_ram (s : State) (v : PcAddr) : (s.setPc v).ram = s.ram := rfl
@[simp] theorem State.setPc_flash (s : State) (v : PcAddr) : (s.setPc v).flash = s.flash := rfl
@[simp] theorem State.setPc_inhibit (s : State) (v : PcAddr) : (s.setPc v).inhibit = s.inhibit := rfl
@[simp] theorem State.setPc_sleeping (s : State) (v : PcAddr) : (s.setPc v).sleeping = s.sleeping := rfl
@[simp] theorem State.setPc_requests (s : State) (v : PcAddr) : (s.setPc v).requests = s.requests := rfl
@[simp] theorem State.setPc_draws (s : State) (v : PcAddr) : (s.setPc v).draws = s.draws := rfl
@[simp] theorem State.setPc_events (s : State) (v : PcAddr) : (s.setPc v).events = s.events := rfl
@[simp] theorem State.setPc_reg (s : State) (v : PcAddr) (q : Reg) : (s.setPc v).reg q = s.reg q := rfl
@[simp] theorem State.setPc_pair (s : State) (v : PcAddr) (q : Reg) : (s.setPc v).pair q = s.pair q := rfl
@[simp] theorem State.setPc_pointer (s : State) (v : PcAddr) (p : Pointer) : (s.setPc v).pointer p = s.pointer p := rfl
@[simp] theorem State.setPc_z (s : State) (v : PcAddr) : (s.setPc v).z = s.z := rfl
@[simp] theorem State.setPc_flagC (s : State) (v : PcAddr) : (s.setPc v).flagC = s.flagC := rfl
@[simp] theorem State.setPc_flagZ (s : State) (v : PcAddr) : (s.setPc v).flagZ = s.flagZ := rfl
@[simp] theorem State.setPc_flagN (s : State) (v : PcAddr) : (s.setPc v).flagN = s.flagN := rfl
@[simp] theorem State.setPc_flagV (s : State) (v : PcAddr) : (s.setPc v).flagV = s.flagV := rfl
@[simp] theorem State.setPc_flagS (s : State) (v : PcAddr) : (s.setPc v).flagS = s.flagS := rfl
@[simp] theorem State.setPc_flagH (s : State) (v : PcAddr) : (s.setPc v).flagH = s.flagH := rfl
@[simp] theorem State.setPc_flagT (s : State) (v : PcAddr) : (s.setPc v).flagT = s.flagT := rfl
@[simp] theorem State.setPc_flagI (s : State) (v : PcAddr) : (s.setPc v).flagI = s.flagI := rfl
@[simp] theorem State.setPc_ramByte (s : State) (v : PcAddr) (a : Word) : (s.setPc v).ramByte a = s.ramByte a := rfl
@[simp] theorem State.setPc_flashByte (s : State) (v : PcAddr) (ba : Nat) : (s.setPc v).flashByte ba = s.flashByte ba := rfl

/-! ### advance -/

@[simp] theorem State.advance_cfg (s : State) (n : PcAddr) : (s.advance n).cfg = s.cfg := rfl
@[simp] theorem State.advance_regs (s : State) (n : PcAddr) : (s.advance n).regs = s.regs := rfl
@[simp] theorem State.advance_pc (s : State) (n : PcAddr) : (s.advance n).pc = wrapPc s.cfg (s.pc + n) := rfl
@[simp] theorem State.advance_sreg (s : State) (n : PcAddr) : (s.advance n).sreg = s.sreg := rfl
@[simp] theorem State.advance_sp (s : State) (n : PcAddr) : (s.advance n).sp = s.sp := rfl
@[simp] theorem State.advance_rampz (s : State) (n : PcAddr) : (s.advance n).rampz = s.rampz := rfl
@[simp] theorem State.advance_eind (s : State) (n : PcAddr) : (s.advance n).eind = s.eind := rfl
@[simp] theorem State.advance_ram (s : State) (n : PcAddr) : (s.advance n).ram = s.ram := rfl
@[simp] theorem State.advance_flash (s : State) (n : PcAddr) : (s.advance n).flash = s.flash := rfl
@[simp] theorem State.advance_inhibit (s : State) (n : PcAddr) : (s.advance n).inhibit = s.inhibit := rfl
@[simp] theorem State.advance_sleeping (s : State) (n : PcAddr) : (s.advance n).sleeping = s.sleeping := rfl
@[simp] theorem State.advance_requests (s : State) (n : PcAddr) : (s.advance n).requests = s.requests := rfl
@[simp] theorem State.advance_draws (s : State) (n : PcAddr) : (s.advance n).draws = s.draws := rfl
@[simp] theorem State.advance_events (s : State) (n : PcAddr) : (s.advance n).events = s.events := rfl
@[simp] theorem State.advance_reg (s : State) (n : PcAddr) (q : Reg) : (s.advance n).reg q = s.reg q := rfl
@[simp] theorem State.advance_pair (s : State) (n : PcAddr) (q : Reg) : (s.advance n).pair q = s.pair q := rfl
@[simp] theorem State.advance_pointer (s : State) (n : PcAddr) (p : Pointer) : (s.advance n).pointer p = s.pointer p := rfl
@[simp] theorem State.advance_z (s : State) (n : PcAddr) : (s.advance n).z = s.z := rfl
@[simp] theorem State.advance_flagC (s : State) (n : PcAddr) : (s.advance n).flagC = s.flagC := rfl
@[simp] theorem State.advance_flagZ (s : State) (n : PcAddr) : (s.advance n).flagZ = s.flagZ := rfl
@[simp] theorem State.advance_flagN (s : State) (n : PcAddr) : (s.advance n).flagN = s.flagN := rfl
@[simp] theorem State.advance_flagV (s : State) (n : PcAddr) : (s.advance n).flagV = s.flagV := rfl
@[simp] theorem State.advance_flagS (s : State) (n : PcAddr) : (s.advance n).flagS = s.flagS := rfl
@[simp] theorem State.advance_flagH (s : State) (n : PcAddr) : (s.advance n).flagH = s.flagH := rfl
@[simp] theorem State.advance_flagT (s : State) (n : PcAddr) : (s.advance n).flagT = s.flagT := rfl
@[simp] theorem State.advance_flagI (s : State) (n : PcAddr) : (s.advance n).flagI = s.flagI := rfl
@[simp] theorem State.advance_ramByte (s : State) (n : PcAddr) (a : Word) : (s.advance n).ramByte a = s.ramByte a := rfl
@[simp] theorem State.advance_flashByte (s : State) (n : PcAddr) (ba : Nat) : (s.advance n).flashByte ba = s.flashByte ba := rfl

/-! ### setSreg -/

@[simp] theorem State.setSreg_cfg (s : State) (v : Byte) : (s.setSreg v).cfg = s.cfg := rfl
@[simp] theorem State.setSreg_regs (s : State) (v : Byte) : (s.setSreg v).regs = s.regs := rfl
@[simp] theorem State.setSreg_pc (s : State) (v : Byte) : (s.setSreg v).pc = s.pc := rfl
@[simp] theorem State.setSreg_sreg (s : State) (v : Byte) : (s.setSreg v).sreg = v := rfl
@[simp] theorem State.setSreg_sp (s : State) (v : Byte) : (s.setSreg v).sp = s.sp := rfl
@[simp] theorem State.setSreg_rampz (s : State) (v : Byte) : (s.setSreg v).rampz = s.rampz := rfl
@[simp] theorem State.setSreg_eind (s : State) (v : Byte) : (s.setSreg v).eind = s.eind := rfl
@[simp] theorem State.setSreg_ram (s : State) (v : Byte) : (s.setSreg v).ram = s.ram := rfl
@[simp] theorem State.setSreg_flash (s : State) (v : Byte) : (s.setSreg v).flash = s.flash := rfl
@[simp] theorem State.setSreg_inhibit (s : State) (v : Byte) : (s.setSreg v).inhibit = s.inhibit := rfl
@[simp] theorem State.setSreg_sleeping (s : State) (v : Byte) : (s.setSreg v).sleeping = s.sleeping := rfl
@[simp] theorem State.setSreg_requests (s : State) (v : Byte) : (s.setSreg v).requests = s.requests := rfl
@[simp] theorem State.setSreg_draws (s : State) (v : Byte) : (s.setSreg v).draws = s.draws := rfl
@[simp] theorem State.setSreg_events (s : State) (v : Byte) : (s.setSreg v).events = s.events := rfl
@[simp] theorem State.setSreg_reg (s : State) (v : Byte) (q : Reg) : (s.setSreg v).reg q = s.reg q := rfl
@[simp] theorem State.setSreg_pair (s : State) (v : Byte) (q : Reg) : (s.setSreg v).pair q = s.pair q := rfl
@[simp] theorem State.setSreg_pointer (s : State) (v : Byte) (p : Pointer) : (s.setSreg v).pointer p = s.pointer p := rfl
@[simp] theorem State.setSreg_z (s : State) (v : Byte) : (s.setSreg v).z = s.z := rfl
@[simp] theorem State.setSreg_ramByte (s : State) (v : Byte) (a : Word) : (s.setSreg v).ramByte a = s.ramByte a := rfl
@[simp] theorem State.setSreg_flashByte (s : State) (v : Byte) (ba : Nat) : (s.setSreg v).flashByte ba = s.flashByte ba := rfl

/-! ### writeSreg -/

@[simp] theorem State.writeSreg_cfg (s : State) (v : Byte) : (s.writeSreg v).cfg = s.cfg := rfl
@[simp] theorem State.writeSreg_regs (s : State) (v : Byte) : (s.writeSreg v).regs = s.regs := rfl
@[simp] theorem State.writeSreg_pc (s : State) (v : Byte) : (s.writeSreg v).pc = s.pc := rfl
@[simp] theorem State.writeSreg_sreg (s : State) (v : Byte) : (s.writeSreg v).sreg = v := rfl
@[simp] theorem State.writeSreg_sp (s : State) (v : Byte) : (s.writeSreg v).sp = s.sp := rfl
@[simp] theorem State.writeSreg_rampz (s : State) (v : Byte) : (s.writeSreg v).rampz = s.rampz := rfl
@[simp] theorem State.writeSreg_eind (s : State) (v : Byte) : (s.writeSreg v).eind = s.eind := rfl
@[simp] theorem State.writeSreg_ram (s : State) (v : Byte) : (s.writeSreg v).ram = s.ram := rfl
@[simp] theorem State.writeSreg_flash (s : State) (v : Byte) : (s.writeSreg v).flash = s.flash := rfl
@[simp] theorem State.writeSreg_inhibit (s : State) (v : Byte) : (s.writeSreg v).inhibit = (s.inhibit || (!s.sreg.getLsbD 7 && v.getLsbD 7)) := rfl
@[simp] theorem State.writeSreg_sleeping (s : State) (v : Byte) : (s.writeSreg v).sleeping = s.sleeping := rfl
@[simp] theorem State.writeSreg_requests (s : State) (v : Byte) : (s.writeSreg v).requests = s.requests := rfl
@[simp] theorem State.writeSreg_draws (s : State) (v : Byte) : (s.writeSreg v).draws = s.draws := rfl
@[simp] theorem State.writeSreg_events (s : State) (v : Byte) : (s.writeSreg v).events = s.events := rfl
@[simp] theorem State.writeSreg_reg (s : State) (v : Byte) (q : Reg) : (s.writeSreg v).reg q = s.reg q := rfl
@[simp] theorem State.writeSreg_pair (s : State) (v : Byte) (q : Reg) : (s.writeSreg v).pair q = s.pair q := rfl
@[simp] theorem State.writeSreg_pointer (s : State) (v : Byte) (p : Pointer) : (s.writeSreg v).pointer p = s.pointer p := rfl
@[simp] theorem State.writeSreg_z (s : State) (v : Byte) : (s.writeSreg v).z = s.z := rfl
@[simp] theorem State.writeSreg_ramByte (s : State) (v : Byte) (a : Word) : (s.writeSreg v).ramByte a = s.ramByte a := rfl
@[simp] theorem State.writeSreg_flashByte (s : State) (v : Byte) (ba : Nat) : (s.writeSreg v).flashByte ba = s.flashByte ba := rfl

/-! ### setSp -/

@[simp] theorem State.setSp_cfg (s : State) (v : Word) : (s.setSp v).cfg = s.cfg := rfl
@[simp] theorem State.setSp_regs (s : State) (v : Word) : (s.setSp v).regs = s.regs := rfl
@[simp] theorem State.setSp_pc (s : State) (v : Word) : (s.setSp v).pc = s.pc := rfl
@[simp] theorem State.setSp_sreg (s : State) (v : Word) : (s.setSp v).sreg = s.sreg := rfl
@[simp] theorem State.setSp_sp (s : State) (v : Word) : (s.setSp v).sp = v := rfl
@[simp] theorem State.setSp_rampz (s : State) (v : Word) : (s.setSp v).rampz = s.rampz := rfl
@[simp] theorem State.setSp_eind (s : State) (v : Word) : (s.setSp v).eind = s.eind := rfl
@[simp] theorem State.setSp_ram (s : State) (v : Word) : (s.setSp v).ram = s.ram := rfl
@[simp] theorem State.setSp_flash (s : State) (v : Word) : (s.setSp v).flash = s.flash := rfl
@[simp] theorem State.setSp_inhibit (s : State) (v : Word) : (s.setSp v).inhibit = s.inhibit := rfl
@[simp] theorem State.setSp_sleeping (s : State) (v : Word) : (s.setSp v).sleeping = s.sleeping := rfl
@[simp] theorem State.setSp_requests (s : State) (v : Word) : (s.setSp v).requests = s.requests := rfl
@[simp] theorem State.setSp_draws (s : State) (v : Word) : (s.setSp v).draws = s.draws := rfl
@[simp] theorem State.setSp_events (s : State) (v : Word) : (s.setSp v).events = s.events := rfl
@[simp] theorem State.setSp_reg (s : State) (v : Word) (q : Reg) : (s.setSp v).reg q = s.reg q := rfl
@[simp] theorem State.setSp_pair (s : State) (v : Word) (q : Reg) : (s.setSp v).pair q = s.pair q := rfl
@[simp] theorem State.setSp_pointer (s : State) (v : Word) (p : Pointer) : (s.setSp v).pointer p = s.pointer p := rfl
@[simp] theorem State.setSp_z (s : State) (v : Word) : (s.setSp v).z = s.z := rfl
@[simp] theorem State.setSp_flagC (s : State) (v : Word) : (s.setSp v).flagC = s.flagC := rfl
@[simp] theorem State.setSp_flagZ (s : State) (v : Word) : (s.setSp v).flagZ = s.flagZ := rfl
@[simp] theorem State.setSp_flagN (s : State) (v : Word) : (s.setSp v).flagN = s.flagN := rfl
@[simp] theorem State.setSp_flagV (s : State) (v : Word) : (s.setSp v).flagV = s.flagV := rfl
@[simp] theorem State.setSp_flagS (s : State) (v : Word) : (s.setSp v).flagS = s.flagS := rfl
@[simp] theorem State.setSp_flagH (s : State) (v : Word) : (s.setSp v).flagH = s.flagH := rfl
@[simp] theorem State.setSp_flagT (s : State) (v : Word) : (s.setSp v).flagT = s.flagT := rfl
@[simp] theorem State.setSp_flagI (s : State) (v : Word) : (s.setSp v).flagI = s.flagI := rfl
@[simp] theorem State.setSp_ramByte (s : State) (v : Word) (a : Word) : (s.setSp v).ramByte a = s.ramByte a := rfl
@[simp] theorem State.setSp_flashByte (s : State) (v : Word) (ba : Nat) : (s.setSp v).flashByte ba = s.flashByte ba := rfl

/-! ### setRampz -/

@[simp] theorem State.setRampz_cfg (s : State) (v : Byte) : (s.setRampz v).cfg = s.cfg := rfl
@[simp] theorem State.setRampz_regs (s : State) (v : Byte) : (s.setRampz v).regs = s.regs := rfl
@[simp] theorem State.setRampz_pc (s : State) (v : Byte) : (s.setRampz v).pc = s.pc := rfl
@[simp] theorem State.setRampz_sreg (s : State) (v : Byte) : (s.setRampz v).sreg = s.sreg := rfl
@[simp] theorem State.setRampz_sp (s : State) (v : Byte) : (s.setRampz v).sp = s.sp := rfl
@[simp] theorem State.setRampz_rampz (s : State) (v : Byte) : (s.setRampz v).rampz = v &&& s.cfg.rampzMask := rfl
@[simp] theorem State.setRampz_eind (s : State) (v : Byte) : (s.setRampz v).eind = s.eind := rfl
@[simp] theorem State.setRampz_ram (s : State) (v : Byte) : (s.setRampz v).ram = s.ram := rfl
@[simp] theorem State.setRampz_flash (s : State) (v : Byte) : (s.setRampz v).flash = s.flash := rfl
@[simp] theorem State.setRampz_inhibit (s : State) (v : Byte) : (s.setRampz v).inhibit = s.inhibit := rfl
@[simp] theorem State.setRampz_sleeping (s : State) (v : Byte) : (s.setRampz v).sleeping = s.sleeping := rfl
@[simp] theorem State.setRampz_requests (s : State) (v : Byte) : (s.setRampz v).requests = s.requests := rfl
@[simp] theorem State.setRampz_draws (s : State) (v : Byte) : (s.setRampz v).draws = s.draws := rfl
@[simp] theorem State.setRampz_events (s : State) (v : Byte) : (s.setRampz v).events = s.events := rfl
@[simp] theorem State.setRampz_reg (s : State) (v : Byte) (q : Reg) : (s.setRampz v).reg q = s.reg q := rfl
@[simp] theorem State.setRampz_pair (s : State) (v : Byte) (q : Reg) : (s.setRampz v).pair q = s.pair q := rfl
@[simp] theorem State.setRampz_pointer (s : State) (v : Byte) (p : Pointer) : (s.setRampz v).pointer p = s.pointer p := rfl
@[simp] theorem State.setRampz_z (s : State) (v : Byte) : (s.setRampz v).z = s.z := rfl
@[simp] theorem State.setRampz_flagC (s : State) (v : Byte) : (s.setRampz v).flagC = s.flagC := rfl
@[simp] theorem State.setRampz_flagZ (s : State) (v : Byte) : (s.setRampz v).flagZ = s.flagZ := rfl
@[simp] theorem State.setRampz_flagN (s : State) (v : Byte) : (s.setRampz v).flagN = s.flagN := rfl
@[simp] theorem State.setRampz_flagV (s : State) (v : Byte) : (s.setRampz v).flagV = s.flagV := rfl
@[simp] theorem State.setRampz_flagS (s : State) (v : Byte) : (s.setRampz v).flagS = s.flagS := rfl
@[simp] theorem State.setRampz_flagH (s : State) (v : Byte) : (s.setRampz v).flagH = s.flagH := rfl
@[simp] theorem State.setRampz_flagT (s : State) (v : Byte) : (s.setRampz v).flagT = s.flagT := rfl
@[simp] theorem State.setRampz_flagI (s : State) (v : Byte) : (s.setRampz v).flagI = s.flagI := rfl
@[simp] theorem State.setRampz_ramByte (s : State) (v : Byte) (a : Word) : (s.setRampz v).ramByte a = s.ramByte a := rfl
@[simp] theorem State.setRampz_flashByte (s : State) (v : Byte) (ba : Nat) : (s.setRampz v).flashByte ba = s.flashByte ba := rfl

/-! ### setEind -/

@[simp] theorem State.setEind_cfg (s : State) (v : Byte) : (s.setEind v).cfg = s.cfg := rfl
@[simp] theorem State.setEind_regs (s : State) (v : Byte) : (s.setEind v).regs = s.regs := rfl
@[simp] theorem State.setEind_pc (s : State) (v : Byte) : (s.setEind v).pc = s.pc := rfl
@[simp] theorem State.setEind_sreg (s : State) (v : Byte) : (s.setEind v).sreg = s.sreg := rfl
@[simp] theorem State.setEind_sp (s : State) (v : Byte) : (s.setEind v).sp = s.sp := rfl
@[simp] theorem State.setEind_rampz (s : State) (v : Byte) : (s.setEind v).rampz = s.rampz := rfl
@[simp] theorem State.setEind_eind (s : State) (v : Byte) : (s.setEind v).eind = v &&& s.cfg.eindMask := rfl
@[simp] theorem State.setEind_ram (s : State) (v : Byte) : (s.setEind v).ram = s.ram := rfl
@[simp] theorem State.setEind_flash (s : State) (v : Byte) : (s.setEind v).flash = s.flash := rfl
@[simp] theorem State.setEind_inhibit (s : State) (v : Byte) : (s.setEind v).inhibit = s.inhibit := rfl
@[simp] theorem State.setEind_sleeping (s : State) (v : Byte) : (s.setEind v).sleeping = s.sleeping := rfl
@[simp] theorem State.setEind_requests (s : State) (v : Byte) : (s.setEind v).requests = s.requests := rfl
@[simp] theorem State.setEind_draws (s : State) (v : Byte) : (s.setEind v).draws = s.draws := rfl
@[simp] theorem State.setEind_events (s : State) (v : Byte) : (s.setEind v).events = s.events := rfl
@[simp] theorem State.setEind_reg (s : State) (v : Byte) (q : Reg) : (s.setEind v).reg q = s.reg q := rfl
@[simp] theorem State.setEind_pair (s : State) (v : Byte) (q : Reg) : (s.setEind v).pair q = s.pair q := rfl
@[simp] theorem State.setEind_pointer (s : State) (v : Byte) (p : Pointer) : (s.setEind v).pointer p = s.pointer p := rfl
@[simp] theorem State.setEind_z (s : State) (v : Byte) : (s.setEind v).z = s.z := rfl
@[simp] theorem State.setEind_flagC (s : State) (v : Byte) : (s.setEind v).flagC = s.flagC := rfl
@[simp] theorem State.setEind_flagZ (s : State) (v : Byte) : (s.setEind v).flagZ = s.flagZ := rfl
@[simp] theorem State.setEind_flagN (s : State) (v : Byte) : (s.setEind v).flagN = s.flagN := rfl
@[simp] theorem State.setEind_flagV (s : State) (v : Byte) : (s.setEind v).flagV = s.flagV := rfl
@[simp] theorem State.setEind_flagS (s : State) (v : Byte) : (s.setEind v).flagS = s.flagS := rfl
@[simp] theorem State.setEind_flagH (s : State) (v : Byte) : (s.setEind v).flagH = s.flagH := rfl
@[simp] theorem State.setEind_flagT (s : State) (v : Byte) : (s.setEind v).flagT = s.flagT := rfl
@[simp] theorem State.setEind_flagI (s : State) (v : Byte) : (s.setEind v).flagI = s.flagI := rfl
@[simp] theorem State.setEind_ramByte (s : State) (v : Byte) (a : Word) : (s.setEind v).ramByte a = s.ramByte a := rfl
@[simp] theorem State.setEind_flashByte (s : State) (v : Byte) (ba : Nat) : (s.setEind v).flashByte ba = s.flashByte ba := rfl

/-! ### setRam -/

@[simp] theorem State.setRam_cfg (s : State) (a : Word) (v : Byte) : (s.setRam a v).cfg = s.cfg := rfl
@[simp] theorem State.setRam_regs (s : State) (a : Word) (v : Byte) : (s.setRam a v).regs = s.regs := rfl
@[simp] theorem State.setRam_pc (s : State) (a : Word) (v : Byte) : (s.setRam a v).pc = s.pc := rfl
@[simp] theorem State.setRam_sreg (s : State) (a : Word) (v : Byte) : (s.setRam a v).sreg = s.sreg := rfl
@[simp] theorem State.setRam_sp (s : State) (a : Word) (v : Byte) : (s.setRam a v).sp = s.sp := rfl
@[simp] theorem State.setRam_rampz (s : State) (a : Word) (v : Byte) : (s.setRam a v).rampz = s.rampz := rfl
@[simp] theorem State.setRam_eind (s : State) (a : Word) (v : Byte) : (s.setRam a v).eind = s.eind := rfl
@[simp] theorem State.setRam_ram (s : State) (a : Word) (v : Byte) : (s.setRam a v).ram = Memory.write ramBlank s.ram a.toNat v := rfl
@[simp] theorem State.setRam_flash (s : State) (a : Word) (v : Byte) : (s.setRam a v).flash = s.flash := rfl
@[simp] theorem State.setRam_inhibit (s : State) (a : Word) (v : Byte) : (s.setRam a v).inhibit = s.inhibit := rfl
@[simp] theorem State.setRam_sleeping (s : State) (a : Word) (v : Byte) : (s.setRam a v).sleeping = s.sleeping := rfl
@[simp] theorem State.setRam_requests (s : State) (a : Word) (v : Byte) : (s.setRam a v).requests = s.requests := rfl
@[simp] theorem State.setRam_draws (s : State) (a : Word) (v : Byte) : (s.setRam a v).draws = s.draws := rfl
@[simp] theorem State.setRam_events (s : State) (a : Word) (v : Byte) : (s.setRam a v).events = s.events := rfl
@[simp] theorem State.setRam_reg (s : State) (a : Word) (v : Byte) (q : Reg) : (s.setRam a v).reg q = s.reg q := rfl
@[simp] theorem State.setRam_pair (s : State) (a : Word) (v : Byte) (q : Reg) : (s.setRam a v).pair q = s.pair q := rfl
@[simp] theorem State.setRam_pointer (s : State) (a : Word) (v : Byte) (p : Pointer) : (s.setRam a v).pointer p = s.pointer p := rfl
@[simp] theorem State.setRam_z (s : State) (a : Word) (v : Byte) : (s.setRam a v).z = s.z := rfl
@[simp] theorem State.setRam_flagC (s : State) (a : Word) (v : Byte) : (s.setRam a v).flagC = s.flagC := rfl
@[simp] theorem State.setRam_flagZ (s : State) (a : Word) (v : Byte) : (s.setRam a v).flagZ = s.flagZ := rfl
@[simp] theorem State.setRam_flagN (s : State) (a : Word) (v : Byte) : (s.setRam a v).flagN = s.flagN := rfl
@[simp] theorem State.setRam_flagV (s : State) (a : Word) (v : Byte) : (s.setRam a v).flagV = s.flagV := rfl
@[simp] theorem State.setRam_flagS (s : State) (a : Word) (v : Byte) : (s.setRam a v).flagS = s.flagS := rfl
@[simp] theorem State.setRam_flagH (s : State) (a : Word) (v : Byte) : (s.setRam a v).flagH = s.flagH := rfl
@[simp] theorem State.setRam_flagT (s : State) (a : Word) (v : Byte) : (s.setRam a v).flagT = s.flagT := rfl
@[simp] theorem State.setRam_flagI (s : State) (a : Word) (v : Byte) : (s.setRam a v).flagI = s.flagI := rfl
@[simp] theorem State.setRam_flashByte (s : State) (a : Word) (v : Byte) (ba : Nat) : (s.setRam a v).flashByte ba = s.flashByte ba := rfl

/-! ### record -/

@[simp] theorem State.record_cfg (s : State) (e : Event) : (s.record e).cfg = s.cfg := rfl
@[simp] theorem State.record_regs (s : State) (e : Event) : (s.record e).regs = s.regs := rfl
@[simp] theorem State.record_pc (s : State) (e : Event) : (s.record e).pc = s.pc := rfl
@[simp] theorem State.record_sreg (s : State) (e : Event) : (s.record e).sreg = s.sreg := rfl
@[simp] theorem State.record_sp (s : State) (e : Event) : (s.record e).sp = s.sp := rfl
@[simp] theorem State.record_rampz (s : State) (e : Event) : (s.record e).rampz = s.rampz := rfl
@[simp] theorem State.record_eind (s : State) (e : Event) : (s.record e).eind = s.eind := rfl
@[simp] theorem State.record_ram (s : State) (e : Event) : (s.record e).ram = s.ram := rfl
@[simp] theorem State.record_flash (s : State) (e : Event) : (s.record e).flash = s.flash := rfl
@[simp] theorem State.record_inhibit (s : State) (e : Event) : (s.record e).inhibit = s.inhibit := rfl
@[simp] theorem State.record_sleeping (s : State) (e : Event) : (s.record e).sleeping = s.sleeping := rfl
@[simp] theorem State.record_requests (s : State) (e : Event) : (s.record e).requests = s.requests := rfl
@[simp] theorem State.record_draws (s : State) (e : Event) : (s.record e).draws = s.draws := rfl
@[simp] theorem State.record_events (s : State) (e : Event) : (s.record e).events = s.events ++ [e] := rfl
@[simp] theorem State.record_reg (s : State) (e : Event) (q : Reg) : (s.record e).reg q = s.reg q := rfl
@[simp] theorem State.record_pair (s : State) (e : Event) (q : Reg) : (s.record e).pair q = s.pair q := rfl
@[simp] theorem State.record_pointer (s : State) (e : Event) (p : Pointer) : (s.record e).pointer p = s.pointer p := rfl
@[simp] theorem State.record_z (s : State) (e : Event) : (s.record e).z = s.z := rfl
@[simp] theorem State.record_flagC (s : State) (e : Event) : (s.record e).flagC = s.flagC := rfl
@[simp] theorem State.record_flagZ (s : State) (e : Event) : (s.record e).flagZ = s.flagZ := rfl
@[simp] theorem State.record_flagN (s : State) (e : Event) : (s.record e).flagN = s.flagN := rfl
@[simp] theorem State.record_flagV (s : State) (e : Event) : (s.record e).flagV = s.flagV := rfl
@[simp] theorem State.record_flagS (s : State) (e : Event) : (s.record e).flagS = s.flagS := rfl
@[simp] theorem State.record_flagH (s : State) (e : Event) : (s.record e).flagH = s.flagH := rfl
@[simp] theorem State.record_flagT (s : State) (e : Event) : (s.record e).flagT = s.flagT := rfl
@[simp] theorem State.record_flagI (s : State) (e : Event) : (s.record e).flagI = s.flagI := rfl
@[simp] theorem State.record_ramByte (s : State) (e : Event) (a : Word) : (s.record e).ramByte a = s.ramByte a := rfl
@[simp] theorem State.record_flashByte (s : State) (e : Event) (ba : Nat) : (s.record e).flashByte ba = s.flashByte ba := rfl

/-! ### drawn -/

@[simp] theorem State.drawn_cfg (s : State) : (s.drawn).cfg = s.cfg := rfl
@[simp] theorem State.drawn_regs (s : State) : (s.drawn).regs = s.regs := rfl
@[simp] theorem State.drawn_pc (s : State) : (s.drawn).pc = s.pc := rfl
@[simp] theorem State.drawn_sreg (s : State) : (s.drawn).sreg = s.sreg := rfl
@[simp] theorem State.drawn_sp (s : State) : (s.drawn).sp = s.sp := rfl
@[simp] theorem State.drawn_rampz (s : State) : (s.drawn).rampz = s.rampz := rfl
@[simp] theorem State.drawn_eind (s : State) : (s.drawn).eind = s.eind := rfl
@[simp] theorem State.drawn_ram (s : State) : (s.drawn).ram = s.ram := rfl
@[simp] theorem State.drawn_flash (s : State) : (s.drawn).flash = s.flash := rfl
@[simp] theorem State.drawn_inhibit (s : State) : (s.drawn).inhibit = s.inhibit := rfl
@[simp] theorem State.drawn_sleeping (s : State) : (s.drawn).sleeping = s.sleeping := rfl
@[simp] theorem State.drawn_requests (s : State) : (s.drawn).requests = s.requests := rfl
@[simp] theorem State.drawn_draws (s : State) : (s.drawn).draws = s.draws + 1 := rfl
@[simp] theorem State.drawn_events (s : State) : (s.drawn).events = s.events := rfl
@[simp] theorem State.drawn_reg (s : State) (q : Reg) : (s.drawn).reg q = s.reg q := rfl
@[simp] theorem State.drawn_pair (s : State) (q : Reg) : (s.drawn).pair q = s.pair q := rfl
@[simp] theorem State.drawn_pointer (s : State) (p : Pointer) : (s.drawn).pointer p = s.pointer p := rfl
@[simp] theorem State.drawn_z (s : State) : (s.drawn).z = s.z := rfl
@[simp] theorem State.drawn_flagC (s : State) : (s.drawn).flagC = s.flagC := rfl
@[simp] theorem State.drawn_flagZ (s : State) : (s.drawn).flagZ = s.flagZ := rfl
@[simp] theorem State.drawn_flagN (s : State) : (s.drawn).flagN = s.flagN := rfl
@[simp] theorem State.drawn_flagV (s : State) : (s.drawn).flagV = s.flagV := rfl
@[simp] theorem State.drawn_flagS (s : State) : (s.drawn).flagS = s.flagS := rfl
@[simp] theorem State.drawn_flagH (s : State) : (s.drawn).flagH = s.flagH := rfl
@[simp] theorem State.drawn_flagT (s : State) : (s.drawn).flagT = s.flagT := rfl
@[simp] theorem State.drawn_flagI (s : State) : (s.drawn).flagI = s.flagI := rfl
@[simp] theorem State.drawn_ramByte (s : State) (a : Word) : (s.drawn).ramByte a = s.ramByte a := rfl
@[simp] theorem State.drawn_flashByte (s : State) (ba : Nat) : (s.drawn).flashByte ba = s.flashByte ba := rfl

/-! ### loadWord -/

@[simp] theorem State.loadWord_cfg (s : State) (wa : Nat) (w : Word) : (s.loadWord wa w).cfg = s.cfg := rfl
@[simp] theorem State.loadWord_regs (s : State) (wa : Nat) (w : Word) : (s.loadWord wa w).regs = s.regs := rfl
@[simp] theorem State.loadWord_pc (s : State) (wa : Nat) (w : Word) : (s.loadWord wa w).pc = s.pc := rfl
@[simp] theorem State.loadWord_sreg (s : State) (wa : Nat) (w : Word) : (s.loadWord wa w).sreg = s.sreg := rfl
@[simp] theorem State.loadWord_sp (s : State) (wa : Nat) (w : Word) : (s.loadWord wa w).sp = s.sp := rfl
@[simp] theorem State.loadWord_rampz (s : State) (wa : Nat) (w : Word) : (s.loadWord wa w).rampz = s.rampz := rfl
@[simp] theorem State.loadWord_eind (s : State) (wa : Nat) (w : Word) : (s.loadWord wa w).eind = s.eind := rfl
@[simp] theorem State.loadWord_ram (s : State) (wa : Nat) (w : Word) : (s.loadWord wa w).ram = s.ram := rfl
@[simp] theorem State.loadWord_inhibit (s : State) (wa : Nat) (w : Word) : (s.loadWord wa w).inhibit = s.inhibit := rfl
@[simp] theorem State.loadWord_sleeping (s : State) (wa : Nat) (w : Word) : (s.loadWord wa w).sleeping = s.sleeping := rfl
@[simp] theorem State.loadWord_requests (s : State) (wa : Nat) (w : Word) : (s.loadWord wa w).requests = s.requests := rfl
@[simp] theorem State.loadWord_draws (s : State) (wa : Nat) (w : Word) : (s.loadWord wa w).draws = s.draws := rfl
@[simp] theorem State.loadWord_events (s : State) (wa : Nat) (w : Word) : (s.loadWord wa w).events = s.events := rfl
@[simp] theorem State.loadWord_reg (s : State) (wa : Nat) (w : Word) (q : Reg) : (s.loadWord wa w).reg q = s.reg q := rfl
@[simp] theorem State.loadWord_pair (s : State) (wa : Nat) (w : Word) (q : Reg) : (s.loadWord wa w).pair q = s.pair q := rfl
@[simp] theorem State.loadWord_pointer (s : State) (wa : Nat) (w : Word) (p : Pointer) : (s.loadWord wa w).pointer p = s.pointer p := rfl
@[simp] theorem State.loadWord_z (s : State) (wa : Nat) (w : Word) : (s.loadWord wa w).z = s.z := rfl
@[simp] theorem State.loadWord_flagC (s : State) (wa : Nat) (w : Word) : (s.loadWord wa w).flagC = s.flagC := rfl
@[simp] theorem State.loadWord_flagZ (s : State) (wa : Nat) (w : Word) : (s.loadWord wa w).flagZ = s.flagZ := rfl
@[simp] theorem State.loadWord_flagN (s : State) (wa : Nat) (w : Word) : (s.loadWord wa w).flagN = s.flagN := rfl
@[simp] theorem State.loadWord_flagV (s : State) (wa : Nat) (w : Word) : (s.loadWord wa w).flagV = s.flagV := rfl
@[simp] theorem State.loadWord_flagS (s : State) (wa : Nat) (w : Word) : (s.loadWord wa w).flagS = s.flagS := rfl
@[simp] theorem State.loadWord_flagH (s : State) (wa : Nat) (w : Word) : (s.loadWord wa w).flagH = s.flagH := rfl
@[simp] theorem State.loadWord_flagT (s : State) (wa : Nat) (w : Word) : (s.loadWord wa w).flagT = s.flagT := rfl
@[simp] theorem State.loadWord_flagI (s : State) (wa : Nat) (w : Word) : (s.loadWord wa w).flagI = s.flagI := rfl
@[simp] theorem State.loadWord_ramByte (s : State) (wa : Nat) (w : Word) (a : Word) : (s.loadWord wa w).ramByte a = s.ramByte a := rfl

/-! ### passBoundary -/

@[simp] theorem State.passBoundary_cfg (s : State) : (s.passBoundary).cfg = s.cfg := rfl
@[simp] theorem State.passBoundary_regs (s : State) : (s.passBoundary).regs = s.regs := rfl
@[simp] theorem State.passBoundary_pc (s : State) : (s.passBoundary).pc = s.pc := rfl
@[simp] theorem State.passBoundary_sreg (s : State) : (s.passBoundary).sreg = s.sreg := rfl
@[simp] theorem State.passBoundary_sp (s : State) : (s.passBoundary).sp = s.sp := rfl
@[simp] theorem State.passBoundary_rampz (s : State) : (s.passBoundary).rampz = s.rampz := rfl
@[simp] theorem State.passBoundary_eind (s : State) : (s.passBoundary).eind = s.eind := rfl
@[simp] theorem State.passBoundary_ram (s : State) : (s.passBoundary).ram = s.ram := rfl
@[simp] theorem State.passBoundary_flash (s : State) : (s.passBoundary).flash = s.flash := rfl
@[simp] theorem State.passBoundary_inhibit (s : State) : (s.passBoundary).inhibit = s.inhibit := rfl
@[simp] theorem State.passBoundary_sleeping (s : State) : (s.passBoundary).sleeping = s.sleeping := rfl
@[simp] theorem State.passBoundary_requests (s : State) : (s.passBoundary).requests = s.requests.tail := rfl
@[simp] theorem State.passBoundary_draws (s : State) : (s.passBoundary).draws = s.draws := rfl
@[simp] theorem State.passBoundary_events (s : State) : (s.passBoundary).events = s.events := rfl
@[simp] theorem State.passBoundary_reg (s : State) (q : Reg) : (s.passBoundary).reg q = s.reg q := rfl
@[simp] theorem State.passBoundary_pair (s : State) (q : Reg) : (s.passBoundary).pair q = s.pair q := rfl
@[simp] theorem State.passBoundary_pointer (s : State) (p : Pointer) : (s.passBoundary).pointer p = s.pointer p := rfl
@[simp] theorem State.passBoundary_z (s : State) : (s.passBoundary).z = s.z := rfl
@[simp] theorem State.passBoundary_flagC (s : State) : (s.passBoundary).flagC = s.flagC := rfl
@[simp] theorem State.passBoundary_flagZ (s : State) : (s.passBoundary).flagZ = s.flagZ := rfl
@[simp] theorem State.passBoundary_flagN (s : State) : (s.passBoundary).flagN = s.flagN := rfl
@[simp] theorem State.passBoundary_flagV (s : State) : (s.passBoundary).flagV = s.flagV := rfl
@[simp] theorem State.passBoundary_flagS (s : State) : (s.passBoundary).flagS = s.flagS := rfl
@[simp] theorem State.passBoundary_flagH (s : State) : (s.passBoundary).flagH = s.flagH := rfl
@[simp] theorem State.passBoundary_flagT (s : State) : (s.passBoundary).flagT = s.flagT := rfl
@[simp] theorem State.passBoundary_flagI (s : State) : (s.passBoundary).flagI = s.flagI := rfl
@[simp] theorem State.passBoundary_ramByte (s : State) (a : Word) : (s.passBoundary).ramByte a = s.ramByte a := rfl
@[simp] theorem State.passBoundary_flashByte (s : State) (ba : Nat) : (s.passBoundary).flashByte ba = s.flashByte ba := rfl

/-! ### setHSVNZC -/

@[simp] theorem State.setHSVNZC_cfg (s : State) (f : FlagValues) : (s.setHSVNZC f).cfg = s.cfg := rfl
@[simp] theorem State.setHSVNZC_regs (s : State) (f : FlagValues) : (s.setHSVNZC f).regs = s.regs := rfl
@[simp] theorem State.setHSVNZC_pc (s : State) (f : FlagValues) : (s.setHSVNZC f).pc = s.pc := rfl
@[simp] theorem State.setHSVNZC_sreg (s : State) (f : FlagValues) : (s.setHSVNZC f).sreg = packSreg s.flagI s.flagT f.h (f.n ^^ f.v) f.v f.n f.z f.c := rfl
@[simp] theorem State.setHSVNZC_sp (s : State) (f : FlagValues) : (s.setHSVNZC f).sp = s.sp := rfl
@[simp] theorem State.setHSVNZC_rampz (s : State) (f : FlagValues) : (s.setHSVNZC f).rampz = s.rampz := rfl
@[simp] theorem State.setHSVNZC_eind (s : State) (f : FlagValues) : (s.setHSVNZC f).eind = s.eind := rfl
@[simp] theorem State.setHSVNZC_ram (s : State) (f : FlagValues) : (s.setHSVNZC f).ram = s.ram := rfl
@[simp] theorem State.setHSVNZC_flash (s : State) (f : FlagValues) : (s.setHSVNZC f).flash = s.flash := rfl
@[simp] theorem State.setHSVNZC_inhibit (s : State) (f : FlagValues) : (s.setHSVNZC f).inhibit = s.inhibit := rfl
@[simp] theorem State.setHSVNZC_sleeping (s : State) (f : FlagValues) : (s.setHSVNZC f).sleeping = s.sleeping := rfl
@[simp] theorem State.setHSVNZC_requests (s : State) (f : FlagValues) : (s.setHSVNZC f).requests = s.requests := rfl
@[simp] theorem State.setHSVNZC_draws (s : State) (f : FlagValues) : (s.setHSVNZC f).draws = s.draws := rfl
@[simp] theorem State.setHSVNZC_events (s : State) (f : FlagValues) : (s.setHSVNZC f).events = s.events := rfl
@[simp] theorem State.setHSVNZC_reg (s : State) (f : FlagValues) (q : Reg) : (s.setHSVNZC f).reg q = s.reg q := rfl
@[simp] theorem State.setHSVNZC_pair (s : State) (f : FlagValues) (q : Reg) : (s.setHSVNZC f).pair q = s.pair q := rfl
@[simp] theorem State.setHSVNZC_pointer (s : State) (f : FlagValues) (p : Pointer) : (s.setHSVNZC f).pointer p = s.pointer p := rfl
@[simp] theorem State.setHSVNZC_z (s : State) (f : FlagValues) : (s.setHSVNZC f).z = s.z := rfl
@[simp] theorem State.setHSVNZC_ramByte (s : State) (f : FlagValues) (a : Word) : (s.setHSVNZC f).ramByte a = s.ramByte a := rfl
@[simp] theorem State.setHSVNZC_flashByte (s : State) (f : FlagValues) (ba : Nat) : (s.setHSVNZC f).flashByte ba = s.flashByte ba := rfl

/-! ### setSVNZC -/

@[simp] theorem State.setSVNZC_cfg (s : State) (f : FlagValues) : (s.setSVNZC f).cfg = s.cfg := rfl
@[simp] theorem State.setSVNZC_regs (s : State) (f : FlagValues) : (s.setSVNZC f).regs = s.regs := rfl
@[simp] theorem State.setSVNZC_pc (s : State) (f : FlagValues) : (s.setSVNZC f).pc = s.pc := rfl
@[simp] theorem State.setSVNZC_sreg (s : State) (f : FlagValues) : (s.setSVNZC f).sreg = packSreg s.flagI s.flagT s.flagH (f.n ^^ f.v) f.v f.n f.z f.c := rfl
@[simp] theorem State.setSVNZC_sp (s : State) (f : FlagValues) : (s.setSVNZC f).sp = s.sp := rfl
@[simp] theorem State.setSVNZC_rampz (s : State) (f : FlagValues) : (s.setSVNZC f).rampz = s.rampz := rfl
@[simp] theorem State.setSVNZC_eind (s : State) (f : FlagValues) : (s.setSVNZC f).eind = s.eind := rfl
@[simp] theorem State.setSVNZC_ram (s : State) (f : FlagValues) : (s.setSVNZC f).ram = s.ram := rfl
@[simp] theorem State.setSVNZC_flash (s : State) (f : FlagValues) : (s.setSVNZC f).flash = s.flash := rfl
@[simp] theorem State.setSVNZC_inhibit (s : State) (f : FlagValues) : (s.setSVNZC f).inhibit = s.inhibit := rfl
@[simp] theorem State.setSVNZC_sleeping (s : State) (f : FlagValues) : (s.setSVNZC f).sleeping = s.sleeping := rfl
@[simp] theorem State.setSVNZC_requests (s : State) (f : FlagValues) : (s.setSVNZC f).requests = s.requests := rfl
@[simp] theorem State.setSVNZC_draws (s : State) (f : FlagValues) : (s.setSVNZC f).draws = s.draws := rfl
@[simp] theorem State.setSVNZC_events (s : State) (f : FlagValues) : (s.setSVNZC f).events = s.events := rfl
@[simp] theorem State.setSVNZC_reg (s : State) (f : FlagValues) (q : Reg) : (s.setSVNZC f).reg q = s.reg q := rfl
@[simp] theorem State.setSVNZC_pair (s : State) (f : FlagValues) (q : Reg) : (s.setSVNZC f).pair q = s.pair q := rfl
@[simp] theorem State.setSVNZC_pointer (s : State) (f : FlagValues) (p : Pointer) : (s.setSVNZC f).pointer p = s.pointer p := rfl
@[simp] theorem State.setSVNZC_z (s : State) (f : FlagValues) : (s.setSVNZC f).z = s.z := rfl
@[simp] theorem State.setSVNZC_ramByte (s : State) (f : FlagValues) (a : Word) : (s.setSVNZC f).ramByte a = s.ramByte a := rfl
@[simp] theorem State.setSVNZC_flashByte (s : State) (f : FlagValues) (ba : Nat) : (s.setSVNZC f).flashByte ba = s.flashByte ba := rfl

/-! ### setSVNZ -/

@[simp] theorem State.setSVNZ_cfg (s : State) (v n z : Bool) : (s.setSVNZ v n z).cfg = s.cfg := rfl
@[simp] theorem State.setSVNZ_regs (s : State) (v n z : Bool) : (s.setSVNZ v n z).regs = s.regs := rfl
@[simp] theorem State.setSVNZ_pc (s : State) (v n z : Bool) : (s.setSVNZ v n z).pc = s.pc := rfl
@[simp] theorem State.setSVNZ_sreg (s : State) (v n z : Bool) : (s.setSVNZ v n z).sreg = packSreg s.flagI s.flagT s.flagH (n ^^ v) v n z s.flagC := rfl
@[simp] theorem State.setSVNZ_sp (s : State) (v n z : Bool) : (s.setSVNZ v n z).sp = s.sp := rfl
@[simp] theorem State.setSVNZ_rampz (s : State) (v n z : Bool) : (s.setSVNZ v n z).rampz = s.rampz := rfl
@[simp] theorem State.setSVNZ_eind (s : State) (v n z : Bool) : (s.setSVNZ v n z).eind = s.eind := rfl
@[simp] theorem State.setSVNZ_ram (s : State) (v n z : Bool) : (s.setSVNZ v n z).ram = s.ram := rfl
@[simp] theorem State.setSVNZ_flash (s : State) (v n z : Bool) : (s.setSVNZ v n z).flash = s.flash := rfl
@[simp] theorem State.setSVNZ_inhibit (s : State) (v n z : Bool) : (s.setSVNZ v n z).inhibit = s.inhibit := rfl
@[simp] theorem State.setSVNZ_sleeping (s : State) (v n z : Bool) : (s.setSVNZ v n z).sleeping = s.sleeping := rfl
@[simp] theorem State.setSVNZ_requests (s : State) (v n z : Bool) : (s.setSVNZ v n z).requests = s.requests := rfl
@[simp] theorem State.setSVNZ_draws (s : State) (v n z : Bool) : (s.setSVNZ v n z).draws = s.draws := rfl
@[simp] theorem State.setSVNZ_events (s : State) (v n z : Bool) : (s.setSVNZ v n z).events = s.events := rfl
@[simp] theorem State.setSVNZ_reg (s : State) (v n z : Bool) (q : Reg) : (s.setSVNZ v n z).reg q = s.reg q := rfl
@[simp] theorem State.setSVNZ_pair (s : State) (v n z : Bool) (q : Reg) : (s.setSVNZ v n z).pair q = s.pair q := rfl
@[simp] theorem State.setSVNZ_pointer (s : State) (v n z : Bool) (p : Pointer) : (s.setSVNZ v n z).pointer p = s.pointer p := rfl
@[simp] theorem State.setSVNZ_z (s : State) (v n z : Bool) : (s.setSVNZ v n z).z = s.z := rfl
@[simp] theorem State.setSVNZ_ramByte (s : State) (v n z : Bool) (a : Word) : (s.setSVNZ v n z).ramByte a = s.ramByte a := rfl
@[simp] theorem State.setSVNZ_flashByte (s : State) (v n z : Bool) (ba : Nat) : (s.setSVNZ v n z).flashByte ba = s.flashByte ba := rfl

/-! ### setZC -/

@[simp] theorem State.setZC_cfg (s : State) (z c : Bool) : (s.setZC z c).cfg = s.cfg := rfl
@[simp] theorem State.setZC_regs (s : State) (z c : Bool) : (s.setZC z c).regs = s.regs := rfl
@[simp] theorem State.setZC_pc (s : State) (z c : Bool) : (s.setZC z c).pc = s.pc := rfl
@[simp] theorem State.setZC_sreg (s : State) (z c : Bool) : (s.setZC z c).sreg = packSreg s.flagI s.flagT s.flagH s.flagS s.flagV s.flagN z c := rfl
@[simp] theorem State.setZC_sp (s : State) (z c : Bool) : (s.setZC z c).sp = s.sp := rfl
@[simp] theorem State.setZC_rampz (s : State) (z c : Bool) : (s.setZC z c).rampz = s.rampz := rfl
@[simp] theorem State.setZC_eind (s : State) (z c : Bool) : (s.setZC z c).eind = s.eind := rfl
@[simp] theorem State.setZC_ram (s : State) (z c : Bool) : (s.setZC z c).ram = s.ram := rfl
@[simp] theorem State.setZC_flash (s : State) (z c : Bool) : (s.setZC z c).flash = s.flash := rfl
@[simp] theorem State.setZC_inhibit (s : State) (z c : Bool) : (s.setZC z c).inhibit = s.inhibit := rfl
@[simp] theorem State.setZC_sleeping (s : State) (z c : Bool) : (s.setZC z c).sleeping = s.sleeping := rfl
@[simp] theorem State.setZC_requests (s : State) (z c : Bool) : (s.setZC z c).requests = s.requests := rfl
@[simp] theorem State.setZC_draws (s : State) (z c : Bool) : (s.setZC z c).draws = s.draws := rfl
@[simp] theorem State.setZC_events (s : State) (z c : Bool) : (s.setZC z c).events = s.events := rfl
@[simp] theorem State.setZC_reg (s : State) (z c : Bool) (q : Reg) : (s.setZC z c).reg q = s.reg q := rfl
@[simp] theorem State.setZC_pair (s : State) (z c : Bool) (q : Reg) : (s.setZC z c).pair q = s.pair q := rfl
@[simp] theorem State.setZC_pointer (s : State) (z c : Bool) (p : Pointer) : (s.setZC z c).pointer p = s.pointer p := rfl
@[simp] theorem State.setZC_z (s : State) (z c : Bool) : (s.setZC z c).z = s.z := rfl
@[simp] theorem State.setZC_ramByte (s : State) (z c : Bool) (a : Word) : (s.setZC z c).ramByte a = s.ramByte a := rfl
@[simp] theorem State.setZC_flashByte (s : State) (z c : Bool) (ba : Nat) : (s.setZC z c).flashByte ba = s.flashByte ba := rfl

/-! ### logicFlags -/

@[simp] theorem State.logicFlags_cfg (s : State) (v : Byte) : (s.logicFlags v).cfg = s.cfg := rfl
@[simp] theorem State.logicFlags_regs (s : State) (v : Byte) : (s.logicFlags v).regs = s.regs := rfl
@[simp] theorem State.logicFlags_pc (s : State) (v : Byte) : (s.logicFlags v).pc = s.pc := rfl
@[simp] theorem State.logicFlags_sreg (s : State) (v : Byte) : (s.logicFlags v).sreg = packSreg s.flagI s.flagT s.flagH (bit7 v ^^ false) false (bit7 v) (v == 0#8) s.flagC := rfl
@[simp] theorem State.logicFlags_sp (s : State) (v : Byte) : (s.logicFlags v).sp = s.sp := rfl
@[simp] theorem State.logicFlags_rampz (s : State) (v : Byte) : (s.logicFlags v).rampz = s.rampz := rfl
@[simp] theorem State.logicFlags_eind (s : State) (v : Byte) : (s.logicFlags v).eind = s.eind := rfl
@[simp] theorem State.logicFlags_ram (s : State) (v : Byte) : (s.logicFlags v).ram = s.ram := rfl
@[simp] theorem State.logicFlags_flash (s : State) (v : Byte) : (s.logicFlags v).flash = s.flash := rfl
@[simp] theorem State.logicFlags_inhibit (s : State) (v : Byte) : (s.logicFlags v).inhibit = s.inhibit := rfl
@[simp] theorem State.logicFlags_sleeping (s : State) (v : Byte) : (s.logicFlags v).sleeping = s.sleeping := rfl
@[simp] theorem State.logicFlags_requests (s : State) (v : Byte) : (s.logicFlags v).requests = s.requests := rfl
@[simp] theorem State.logicFlags_draws (s : State) (v : Byte) : (s.logicFlags v).draws = s.draws := rfl
@[simp] theorem State.logicFlags_events (s : State) (v : Byte) : (s.logicFlags v).events = s.events := rfl
@[simp] theorem State.logicFlags_reg (s : State) (v : Byte) (q : Reg) : (s.logicFlags v).reg q = s.reg q := rfl
@[simp] theorem State.logicFlags_pair (s : State) (v : Byte) (q : Reg) : (s.logicFlags v).pair q = s.pair q := rfl
@[simp] theorem State.logicFlags_pointer (s : State) (v : Byte) (p : Pointer) : (s.logicFlags v).pointer p = s.pointer p := rfl
@[simp] theorem State.logicFlags_z (s : State) (v : Byte) : (s.logicFlags v).z = s.z := rfl
@[simp] theorem State.logicFlags_ramByte (s : State) (v : Byte) (a : Word) : (s.logicFlags v).ramByte a = s.ramByte a := rfl
@[simp] theorem State.logicFlags_flashByte (s : State) (v : Byte) (ba : Nat) : (s.logicFlags v).flashByte ba = s.flashByte ba := rfl

/-! ### Registers -/

/-- A register reads as it was written last (R11). -/
theorem State.reg_setReg (s : State) (q r : Reg) (v : Byte) :
    (s.setReg q v).reg r = if r = q then v else s.reg r := by
  simp only [State.reg, State.setReg, Vector.getElem_set]
  by_cases h : r = q
  · subst h; simp
  · have : q.toNat ≠ r.toNat := fun e => h (BitVec.eq_of_toNat_eq e.symm)
    simp [h, this]

@[simp] theorem State.reg_setReg_same (s : State) (r : Reg) (v : Byte) : (s.setReg r v).reg r = v := by
  simp [State.reg_setReg]

theorem State.reg_setReg_other (s : State) {q r : Reg} (v : Byte) (h : r ≠ q) :
    (s.setReg q v).reg r = s.reg r := by
  simp [State.reg_setReg, h]

theorem Reg.ne_succ (r : Reg) : r ≠ r + 1#5 := by
  revert r; decide

/-- The registers after a pair is written (R11). -/
theorem State.reg_setPair (s : State) (q r : Reg) (v : Word) :
    (s.setPair q v).reg r = if r = q + 1#5 then highByte v else if r = q then lowByte v else s.reg r := by
  simp [State.setPair, State.reg_setReg]

theorem State.reg_setPair_other (s : State) {q r : Reg} (v : Word) (h : r ≠ q) (h1 : r ≠ q + 1#5) :
    (s.setPair q v).reg r = s.reg r := by
  simp [State.reg_setPair, h, h1]

/-- A pair reads as it was written. -/
@[simp] theorem State.pair_setPair (s : State) (q : Reg) (v : Word) : (s.setPair q v).pair q = v := by
  have h := Reg.ne_succ q
  simp only [State.pair, State.reg_setPair, if_true, if_neg h]
  simp only [joinBytes, highByte, lowByte]
  ext i hi
  simp only [BitVec.getElem_append, BitVec.getElem_extractLsb']
  split
  · simp [BitVec.getLsbD_eq_getElem hi]
  · rw [show 8 + (i - 8) = i by omega, BitVec.getLsbD_eq_getElem hi]

@[simp] theorem highByte_joinBytes (h l : Byte) : highByte (joinBytes h l) = h := by
  ext i hi
  simp only [highByte, joinBytes, BitVec.getElem_extractLsb', BitVec.getLsbD_append]
  rw [if_neg (by omega)]
  simp [BitVec.getLsbD_eq_getElem hi]

@[simp] theorem lowByte_joinBytes (h l : Byte) : lowByte (joinBytes h l) = l := by
  ext i hi
  simp only [lowByte, joinBytes, BitVec.getElem_extractLsb', Nat.zero_add]
  rw [BitVec.getLsbD_append, if_pos hi, BitVec.getLsbD_eq_getElem hi]

/-! ### Flags -/

@[simp] theorem packSreg_bit0 (i t h s v n z c : Bool) : (packSreg i t h s v n z c).getLsbD 0 = c := by
  cases i <;> cases t <;> cases h <;> cases s <;> cases v <;> cases n <;> cases z <;> cases c <;> rfl
@[simp] theorem packSreg_bit1 (i t h s v n z c : Bool) : (packSreg i t h s v n z c).getLsbD 1 = z := by
  cases i <;> cases t <;> cases h <;> cases s <;> cases v <;> cases n <;> cases z <;> cases c <;> rfl
@[simp] theorem packSreg_bit2 (i t h s v n z c : Bool) : (packSreg i t h s v n z c).getLsbD 2 = n := by
  cases i <;> cases t <;> cases h <;> cases s <;> cases v <;> cases n <;> cases z <;> cases c <;> rfl
@[simp] theorem packSreg_bit3 (i t h s v n z c : Bool) : (packSreg i t h s v n z c).getLsbD 3 = v := by
  cases i <;> cases t <;> cases h <;> cases s <;> cases v <;> cases n <;> cases z <;> cases c <;> rfl
@[simp] theorem packSreg_bit4 (i t h s v n z c : Bool) : (packSreg i t h s v n z c).getLsbD 4 = s := by
  cases i <;> cases t <;> cases h <;> cases s <;> cases v <;> cases n <;> cases z <;> cases c <;> rfl
@[simp] theorem packSreg_bit5 (i t h s v n z c : Bool) : (packSreg i t h s v n z c).getLsbD 5 = h := by
  cases i <;> cases t <;> cases h <;> cases s <;> cases v <;> cases n <;> cases z <;> cases c <;> rfl
@[simp] theorem packSreg_bit6 (i t h s v n z c : Bool) : (packSreg i t h s v n z c).getLsbD 6 = t := by
  cases i <;> cases t <;> cases h <;> cases s <;> cases v <;> cases n <;> cases z <;> cases c <;> rfl
@[simp] theorem packSreg_bit7 (i t h s v n z c : Bool) : (packSreg i t h s v n z c).getLsbD 7 = i := by
  cases i <;> cases t <;> cases h <;> cases s <;> cases v <;> cases n <;> cases z <;> cases c <;> rfl
@[simp] theorem State.setHSVNZC_flagC (s : State) (f : FlagValues) : (s.setHSVNZC f).flagC = f.c := packSreg_bit0 ..
@[simp] theorem State.setHSVNZC_flagZ (s : State) (f : FlagValues) : (s.setHSVNZC f).flagZ = f.z := packSreg_bit1 ..
@[simp] theorem State.setHSVNZC_flagN (s : State) (f : FlagValues) : (s.setHSVNZC f).flagN = f.n := packSreg_bit2 ..
@[simp] theorem State.setHSVNZC_flagV (s : State) (f : FlagValues) : (s.setHSVNZC f).flagV = f.v := packSreg_bit3 ..
@[simp] theorem State.setHSVNZC_flagS (s : State) (f : FlagValues) : (s.setHSVNZC f).flagS = (f.n ^^ f.v) := packSreg_bit4 ..
@[simp] theorem State.setHSVNZC_flagH (s : State) (f : FlagValues) : (s.setHSVNZC f).flagH = f.h := packSreg_bit5 ..
@[simp] theorem State.setHSVNZC_flagT (s : State) (f : FlagValues) : (s.setHSVNZC f).flagT = s.flagT := packSreg_bit6 ..
@[simp] theorem State.setHSVNZC_flagI (s : State) (f : FlagValues) : (s.setHSVNZC f).flagI = s.flagI := packSreg_bit7 ..
@[simp] theorem State.setSVNZC_flagC (s : State) (f : FlagValues) : (s.setSVNZC f).flagC = f.c := packSreg_bit0 ..
@[simp] theorem State.setSVNZC_flagZ (s : State) (f : FlagValues) : (s.setSVNZC f).flagZ = f.z := packSreg_bit1 ..
@[simp] theorem State.setSVNZC_flagN (s : State) (f : FlagValues) : (s.setSVNZC f).flagN = f.n := packSreg_bit2 ..
@[simp] theorem State.setSVNZC_flagV (s : State) (f : FlagValues) : (s.setSVNZC f).flagV = f.v := packSreg_bit3 ..
@[simp] theorem State.setSVNZC_flagS (s : State) (f : FlagValues) : (s.setSVNZC f).flagS = (f.n ^^ f.v) := packSreg_bit4 ..
@[simp] theorem State.setSVNZC_flagH (s : State) (f : FlagValues) : (s.setSVNZC f).flagH = s.flagH := packSreg_bit5 ..
@[simp] theorem State.setSVNZC_flagT (s : State) (f : FlagValues) : (s.setSVNZC f).flagT = s.flagT := packSreg_bit6 ..
@[simp] theorem State.setSVNZC_flagI (s : State) (f : FlagValues) : (s.setSVNZC f).flagI = s.flagI := packSreg_bit7 ..
@[simp] theorem State.setSVNZ_flagC (s : State) (v n z : Bool) : (s.setSVNZ v n z).flagC = s.flagC := packSreg_bit0 ..
@[simp] theorem State.setSVNZ_flagZ (s : State) (v n z : Bool) : (s.setSVNZ v n z).flagZ = z := packSreg_bit1 ..
@[simp] theorem State.setSVNZ_flagN (s : State) (v n z : Bool) : (s.setSVNZ v n z).flagN = n := packSreg_bit2 ..
@[simp] theorem State.setSVNZ_flagV (s : State) (v n z : Bool) : (s.setSVNZ v n z).flagV = v := packSreg_bit3 ..
@[simp] theorem State.setSVNZ_flagS (s : State) (v n z : Bool) : (s.setSVNZ v n z).flagS = (n ^^ v) := packSreg_bit4 ..
@[simp] theorem State.setSVNZ_flagH (s : State) (v n z : Bool) : (s.setSVNZ v n z).flagH = s.flagH := packSreg_bit5 ..
@[simp] theorem State.setSVNZ_flagT (s : State) (v n z : Bool) : (s.setSVNZ v n z).flagT = s.flagT := packSreg_bit6 ..
@[simp] theorem State.setSVNZ_flagI (s : State) (v n z : Bool) : (s.setSVNZ v n z).flagI = s.flagI := packSreg_bit7 ..
@[simp] theorem State.setZC_flagC (s : State) (z c : Bool) : (s.setZC z c).flagC = c := packSreg_bit0 ..
@[simp] theorem State.setZC_flagZ (s : State) (z c : Bool) : (s.setZC z c).flagZ = z := packSreg_bit1 ..
@[simp] theorem State.setZC_flagN (s : State) (z c : Bool) : (s.setZC z c).flagN = s.flagN := packSreg_bit2 ..
@[simp] theorem State.setZC_flagV (s : State) (z c : Bool) : (s.setZC z c).flagV = s.flagV := packSreg_bit3 ..
@[simp] theorem State.setZC_flagS (s : State) (z c : Bool) : (s.setZC z c).flagS = s.flagS := packSreg_bit4 ..
@[simp] theorem State.setZC_flagH (s : State) (z c : Bool) : (s.setZC z c).flagH = s.flagH := packSreg_bit5 ..
@[simp] theorem State.setZC_flagT (s : State) (z c : Bool) : (s.setZC z c).flagT = s.flagT := packSreg_bit6 ..
@[simp] theorem State.setZC_flagI (s : State) (z c : Bool) : (s.setZC z c).flagI = s.flagI := packSreg_bit7 ..

/-- The flag with the number `n`, by its name (R37). -/
def State.flagAt (s : State) (n : BitVec 3) : Bool :=
  match n.toNat with
  | 0 => s.flagC
  | 1 => s.flagZ
  | 2 => s.flagN
  | 3 => s.flagV
  | 4 => s.flagS
  | 5 => s.flagH
  | 6 => s.flagT
  | _ => s.flagI

/-- A bit of SREG is the flag with that number (R37). -/
theorem bitOf_sreg (s : State) (n : BitVec 3) : bitOf s.sreg n = s.flagAt n := by
  obtain h | h | h | h | h | h | h | h : n = 0#3 ∨ n = 1#3 ∨ n = 2#3 ∨ n = 3#3 ∨ n = 4#3 ∨ n = 5#3 ∨ n = 6#3 ∨ n = 7#3 := by
    revert n; decide
  all_goals subst h; rfl

/-- Reading bits of a byte with one bit made `x` (R270, R271, R278 to R281). -/
theorem bitOf_withBit (v : Byte) (b n : BitVec 3) (x : Bool) :
    bitOf (withBit v b x) n = if n = b then x else bitOf v n := by
  revert v b n x; decide +kernel

/-! ### Signs -/

/-- The sign bit is what makes the signed value negative (R7, R10). -/
theorem bit7_eq_toInt_neg (v : Byte) : bit7 v = decide (v.toInt < 0) := by
  revert v; decide +kernel

end Sys2Proof.Machine
end

