-- ==== Sys2Proof/Laws/Memory.lean ====
section
/-! SUPPORT. The laws of memories: a read after a write, every other address left alone, and the canonical form kept by every
operation. -/

namespace Sys2Proof.Machine

/-! ### Reading back -/

/-- Listing a byte shows it at its address and leaves every other address alone. -/
theorem Memory.find_put (m : Memory) (a b : Nat) (v : Byte) :
    Memory.find (Memory.put m a v) b = if b = a then some v else Memory.find m b := by
  induction m with
  | nil => simp [Memory.put, Memory.find, eq_comm]
  | cons c m ih =>
    obtain ⟨k, u⟩ := c
    simp only [Memory.put]
    split
    · simp [Memory.find, eq_comm]
    · split
      · rename_i h
        subst h
        simp only [Memory.find, eq_comm (a := a)]
        split <;> rfl
      · simp only [Memory.find, ih]
        by_cases h : b = a
        · subst h; simp; omega
        · simp [h]

/-- Unlisting a byte hides it and leaves every other address alone. -/
theorem Memory.find_remove (m : Memory) (a b : Nat) :
    Memory.find (Memory.remove m a) b = if b = a then none else Memory.find m b := by
  induction m with
  | nil => simp [Memory.remove, Memory.find]
  | cons c m ih =>
    obtain ⟨k, u⟩ := c
    simp only [Memory.remove, List.filter_cons] at ih ⊢
    by_cases h : k = a
    · subst h
      simp only [bne_self_eq_false, Bool.false_eq_true, if_false, ih, Memory.find]
      simp only [eq_comm (a := k)]
      split <;> rfl
    · simp only [bne_iff_ne, ne_eq, h, not_false_eq_true, if_true, Memory.find, ih]
      by_cases hb : b = a
      · subst hb; simp [h]
      · simp [hb]

/-- A read after a write: the byte written at its address, every other address as before. -/
theorem Memory.read_write (blank : Option Byte) (m : Memory) (a b : Nat) (v : Byte) :
    Memory.read blank (Memory.write blank m a v) b = if b = a then some v else Memory.read blank m b := by
  have h : Memory.find (Memory.write blank m a v) b =
      if b = a then (if blank = some v then none else some v) else Memory.find m b := by
    unfold Memory.write
    by_cases hb : blank = some v <;> simp [hb, Memory.find_put, Memory.find_remove]
  simp only [Memory.read, h]
  by_cases hb : b = a
  · by_cases hv : blank = some v <;> simp [hb, hv]
  · simp [hb]

/-! ### The canonical form -/

/-- What is listed after listing a byte: that byte, or what was listed. -/
theorem Memory.mem_put {m : Memory} {a : Nat} {v : Byte} {c : Host.Cell} (h : c ∈ Memory.put m a v) :
    c = (a, v) ∨ c ∈ m := by
  induction m with
  | nil => simpa [Memory.put] using h
  | cons d m ih =>
    obtain ⟨k, u⟩ := d
    simp only [Memory.put] at h
    split at h
    · simpa using h
    · split at h
      · rcases List.mem_cons.1 h with h | h
        · exact .inl h
        · exact .inr (List.mem_cons_of_mem _ h)
      · rcases List.mem_cons.1 h with h | h
        · exact .inr (h ▸ List.mem_cons_self)
        · rcases ih h with h | h
          · exact .inl h
          · exact .inr (List.mem_cons_of_mem _ h)

/-- What is listed after a write: the byte written, or what was listed. -/
theorem Memory.mem_write {blank : Option Byte} {m : Memory} {a : Nat} {v : Byte} {c : Host.Cell}
    (h : c ∈ Memory.write blank m a v) : c = (a, v) ∨ c ∈ m := by
  unfold Memory.write at h
  split at h
  · exact .inr (List.mem_of_mem_filter h)
  · exact Memory.mem_put h

/-- Listing keeps rising order. -/
theorem Memory.rising_put {m : Memory} (a : Nat) (v : Byte) (h : m.Pairwise (fun c d => c.1 < d.1)) :
    (Memory.put m a v).Pairwise (fun c d => c.1 < d.1) := by
  induction m with
  | nil => simp [Memory.put]
  | cons c m ih =>
    obtain ⟨k, u⟩ := c
    obtain ⟨hk, hm⟩ := List.pairwise_cons.1 h
    simp only [Memory.put]
    split
    · rename_i hlt
      refine List.pairwise_cons.2 ⟨?_, h⟩
      intro d hd
      rcases List.mem_cons.1 hd with rfl | hd
      · exact hlt
      · exact Nat.lt_trans hlt (hk d hd)
    · split
      · rename_i hlt heq
        exact List.pairwise_cons.2 ⟨fun d hd => heq ▸ hk d hd, hm⟩
      · rename_i hlt hne
        refine List.pairwise_cons.2 ⟨?_, ih hm⟩
        intro d hd
        rcases Memory.mem_put hd with rfl | hd
        · show k < a
          omega
        · exact hk d hd

/-- A write keeps the canonical form. -/
theorem Memory.wf_write {blank : Option Byte} {m : Memory} (a : Nat) (v : Byte) (h : Memory.wf blank m) :
    Memory.wf blank (Memory.write blank m a v) := by
  refine ⟨?_, ?_⟩
  · unfold Memory.write
    split
    · exact h.1.filter _
    · exact Memory.rising_put a v h.1
  · intro c hc
    unfold Memory.write at hc
    split at hc
    · exact h.2 c (List.mem_of_mem_filter hc)
    · rename_i hne
      rcases Memory.mem_put hc with rfl | hc
      · exact hne
      · exact h.2 c hc

/-- The empty memory is canonical. -/
theorem Memory.wf_nil (blank : Option Byte) : Memory.wf blank [] := by
  simp [Memory.wf]

/-- The memories of the reset state are canonical. -/
theorem State.reset_memories_wf : Memory.wf ramBlank State.reset.ram ∧ Memory.wf flashBlank State.reset.flash :=
  ⟨Memory.wf_nil _, Memory.wf_nil _⟩

/-! ### The state's own memories -/

/-- The RAM bytes after a RAM write. -/
theorem State.ramByte_setRam (s : State) (a b : Word) (v : Byte) :
    (s.setRam a v).ramByte b = if b = a then some v else s.ramByte b := by
  simp only [State.ramByte, State.setRam_ram, Memory.read_write]
  by_cases h : b = a
  · simp [h]
  · have : b.toNat ≠ a.toNat := fun e => h (BitVec.eq_of_toNat_eq e)
    simp [h, this]

/-- RAM stays canonical under a RAM write. -/
theorem State.wf_setRam (s : State) (a : Word) (v : Byte) (h : Memory.wf ramBlank s.ram) :
    Memory.wf ramBlank (s.setRam a v).ram := Memory.wf_write _ _ h

/-- The bytes of program memory after a word is loaded. -/
theorem State.flashByte_loadWord (s : State) (wa ba : Nat) (w : Word) :
    (s.loadWord wa w).flashByte ba =
      if ba = 2 * wa + 1 then highByte w else if ba = 2 * wa then lowByte w else s.flashByte ba := by
  simp only [State.flashByte, State.loadWord, Memory.read_write]
  split
  · rfl
  · split <;> rfl

/-- Program memory stays canonical when a word is loaded. -/
theorem State.wf_loadWord (s : State) (wa : Nat) (w : Word) (h : Memory.wf flashBlank s.flash) :
    Memory.wf flashBlank (s.loadWord wa w).flash := Memory.wf_write _ _ (Memory.wf_write _ _ h)

end Sys2Proof.Machine
end

