-- ==== Sys2Proof/Laws/Ops.lean ====
section
/-! SUPPORT. One lemma for each shared operation that says all it can do; proofs about instructions cite these and do not
unfold the operation. -/

namespace Sys2Proof.Machine

/-! ### Outcomes in sequence -/

@[simp] theorem andThen_next {α β : Type} (a : α) (f : α → Result β) : andThen (.next a) f = f a := rfl

@[simp] theorem andThen_fault {α β : Type} (r : Fault) (f : α → Result β) : andThen (.fault r) f = .fault r := rfl

@[simp] theorem andThen_refused {α β : Type} (r : Refusal) (f : α → Result β) : andThen (.refused r) f = .refused r := rfl

/-- A sequence ends with a next state exactly when both parts do. -/
theorem andThen_eq_next {α β : Type} {x : Result α} {f : α → Result β} {b : β} :
    andThen x f = .next b ↔ ∃ a, x = .next a ∧ f a = .next b := by
  cases x <;> simp [andThen]

/-- A sequence faults exactly when its first part does, or its first part ends and its second part does. -/
theorem andThen_eq_fault {α β : Type} {x : Result α} {f : α → Result β} {r : Fault} :
    andThen x f = .fault r ↔ x = .fault r ∨ ∃ a, x = .next a ∧ f a = .fault r := by
  cases x <;> simp [andThen]

/-- A sequence is refused exactly when its first part is, or its first part ends and its second part is. -/
theorem andThen_eq_refused {α β : Type} {x : Result α} {f : α → Result β} {r : Refusal} :
    andThen x f = .refused r ↔ x = .refused r ∨ ∃ a, x = .next a ∧ f a = .refused r := by
  cases x <;> simp [andThen]

/-! ### The program counter -/

/-- `wrapPc` is reduction modulo 2^PC_BITS (R36). -/
theorem wrapPc_toNat (c : Config) (v : PcAddr) : (wrapPc c v).toNat = v.toNat % 2 ^ c.pcBits := by
  unfold wrapPc Config.pcBits
  cases c.pcWidth
  · simp only [BitVec.toNat_and]
    rw [show (65535#22).toNat = 2 ^ 16 - 1 from rfl, Nat.and_two_pow_sub_one_eq_mod]
  · exact (Nat.mod_eq_of_lt v.isLt).symm

theorem wrapPc_lt (c : Config) (v : PcAddr) : (wrapPc c v).toNat < 2 ^ c.pcBits := by
  rw [wrapPc_toNat]; exact Nat.mod_lt _ (Nat.two_pow_pos _)

theorem pow_pcBits_dvd (c : Config) : 2 ^ c.pcBits ∣ 2 ^ 22 := by
  unfold Config.pcBits; cases c.pcWidth <;> decide

/-- `wrapPc` of a sum is the sum reduced modulo 2^PC_BITS (R35, R36). -/
theorem wrapPc_add (s : State) (n : PcAddr) : wrapPc s.cfg (s.pc + n) = s.pcAfter n.toNat := by
  apply BitVec.eq_of_toNat_eq
  have hd := pow_pcBits_dvd s.cfg
  have hlt : (s.pc.toNat + n.toNat) % 2 ^ s.cfg.pcBits < 2 ^ 22 :=
    Nat.lt_of_lt_of_le (Nat.mod_lt _ (Nat.two_pow_pos _)) (Nat.le_of_dvd (by decide) hd)
  rw [wrapPc_toNat, State.pcAfter, BitVec.toNat_ofNat, BitVec.toNat_add, Nat.mod_mod_of_dvd _ hd,
    Nat.mod_eq_of_lt hlt]

/-- Where `advance` leaves the pc (R35). -/
theorem State.advance_pcAfter (s : State) (n : PcAddr) : (s.advance n).pc = s.pcAfter n.toNat := wrapPc_add s n

/-- `wrapPc` of a relative target is the target reduced modulo 2^PC_BITS (R36, R222, R240). -/
theorem wrapPc_relative (s : State) (x : PcAddr) :
    wrapPc s.cfg (s.pc + 1#22 + x) = s.pcRelative x.toInt := by
  apply BitVec.eq_of_toNat_eq
  have hp := s.pc.isLt
  have hx := x.isLt
  rw [wrapPc_toNat, State.pcRelative, BitVec.toInt_eq_toNat_cond]
  unfold Config.pcBits
  cases s.cfg.pcWidth <;> simp only [BitVec.toNat_add, BitVec.toNat_ofNat] <;> split <;> omega

end Sys2Proof.Machine
end

