-- ==== Sys2Proof/Laws/Access.lean ====
section
/-! SUPPORT. What the shared operations over program memory, data memory and the stack can do, each said once. -/

namespace Sys2Proof.Machine

/-! ### Reading a data byte -/

/-- The state after the read of a data address: the draw and the event that read takes. -/
def State.afterRead (s : State) (a : Word) : State :=
  { s with draws := s.draws + s.drawsAt a, events := s.events ++ s.eventsAt a }

/-- A read ends exactly when the address shows a byte, with that byte (R12, R62). -/
theorem memRead_eq_next (s : State) (a : Word) (p : Byte × State) :
    memRead s a = .next p ↔ s.seen a = some p.1 ∧ p.2 = s.afterRead a := by
  obtain ⟨v, t⟩ := p
  unfold memRead State.seen State.afterRead State.drawsAt State.eventsAt
  cases h : placeOf s.cfg a <;> simp [readPlatform, readRam, State.ramByte, State.drawn, State.record]
  case ram =>
    rcases Option.eq_none_or_eq_some (Memory.read ramBlank s.ram a.toNat) with h1 | ⟨w, h1⟩
    · cases h2 : s.cfg.unwrittenRead <;> simp [h1]
      exact fun _ => eq_comm
    · simp [h1]
      exact fun _ => eq_comm
  all_goals exact fun _ => eq_comm

/-- A read of an address that shows a byte answers it. -/
theorem memRead_of_seen {s : State} {a : Word} {v : Byte} (h : s.seen a = some v) :
    memRead s a = .next (v, s.afterRead a) := (memRead_eq_next s a (v, s.afterRead a)).2 ⟨h, rfl⟩

/-- When a read faults (R47, R75). -/
theorem memRead_eq_fault (s : State) (a : Word) (f : Fault) :
    memRead s a = .fault f ↔
      (f = .dataOutside a ∧ placeOf s.cfg a = .outside) ∨
      (f = .unwrittenRead a ∧ placeOf s.cfg a = .ram ∧ s.ramByte a = none ∧ s.cfg.unwrittenRead = .fault) := by
  unfold memRead
  cases h : placeOf s.cfg a <;> simp [readRam, State.ramByte, eq_comm]
  cases h1 : Memory.read ramBlank s.ram a.toNat <;> simp
  cases h2 : s.cfg.unwrittenRead <;> simp [eq_comm]

/-- When a read is refused (R64). -/
theorem memRead_eq_refused (s : State) (a : Word) (r : Refusal) :
    memRead s a = .refused r ↔ r = .dataBelow0x20 ∧ placeOf s.cfg a = .noWindow := by
  unfold memRead
  cases h : placeOf s.cfg a <;> simp [readRam, eq_comm]
  cases h1 : Memory.read ramBlank s.ram a.toNat <;> simp
  cases h2 : s.cfg.unwrittenRead <;> simp

/-- The read of any address but a platform location leaves the state as it was (R73). -/
theorem State.afterRead_of_not_platform {s : State} {a : Word} (h : placeOf s.cfg a ≠ .platform) : s.afterRead a = s := by
  simp [State.afterRead, State.drawsAt, State.eventsAt, h]

@[simp] theorem State.afterRead_cfg (s : State) (a : Word) : (s.afterRead a).cfg = s.cfg := rfl
@[simp] theorem State.afterRead_regs (s : State) (a : Word) : (s.afterRead a).regs = s.regs := rfl
@[simp] theorem State.afterRead_reg (s : State) (a : Word) (r : Reg) : (s.afterRead a).reg r = s.reg r := rfl
@[simp] theorem State.afterRead_pointer (s : State) (a : Word) (p : Pointer) : (s.afterRead a).pointer p = s.pointer p := rfl
@[simp] theorem State.afterRead_pc (s : State) (a : Word) : (s.afterRead a).pc = s.pc := rfl
@[simp] theorem State.afterRead_sreg (s : State) (a : Word) : (s.afterRead a).sreg = s.sreg := rfl
@[simp] theorem State.afterRead_sp (s : State) (a : Word) : (s.afterRead a).sp = s.sp := rfl
@[simp] theorem State.afterRead_rampz (s : State) (a : Word) : (s.afterRead a).rampz = s.rampz := rfl
@[simp] theorem State.afterRead_eind (s : State) (a : Word) : (s.afterRead a).eind = s.eind := rfl
@[simp] theorem State.afterRead_ram (s : State) (a : Word) : (s.afterRead a).ram = s.ram := rfl
@[simp] theorem State.afterRead_flash (s : State) (a : Word) : (s.afterRead a).flash = s.flash := rfl
@[simp] theorem State.afterRead_inhibit (s : State) (a : Word) : (s.afterRead a).inhibit = s.inhibit := rfl
@[simp] theorem State.afterRead_sleeping (s : State) (a : Word) : (s.afterRead a).sleeping = s.sleeping := rfl
@[simp] theorem State.afterRead_requests (s : State) (a : Word) : (s.afterRead a).requests = s.requests := rfl
@[simp] theorem State.afterRead_ramByte (s : State) (a b : Word) : (s.afterRead a).ramByte b = s.ramByte b := rfl
@[simp] theorem State.afterRead_flashByte (s : State) (a : Word) (ba : Nat) :
    (s.afterRead a).flashByte ba = s.flashByte ba := rfl
@[simp] theorem State.afterRead_draws (s : State) (a : Word) : (s.afterRead a).draws = s.draws + s.drawsAt a := rfl
@[simp] theorem State.afterRead_events (s : State) (a : Word) : (s.afterRead a).events = s.events ++ s.eventsAt a := rfl

/-! ### Writing a data byte -/

/-- A write of a writable address ends, and what it leaves (R12, R40 to R43, R62 to R64, R318). -/
theorem memWrite_of_writable {s : State} {a : Word} (v : Byte) (h : s.writable a) :
    ∃ t, memWrite s a v = .next t ∧ storesByte s t a v ∧ (∀ r, t.reg r = s.regAfterStore a v r) ∧
      t.sp = s.spAfterStore a v ∧ t.pc = s.pc ∧ t.draws = s.draws := by
  obtain ⟨h1, h2⟩ := h
  unfold memWrite State.regAfterStore State.spAfterStore storesByte keepsProgram
  cases hp : placeOf s.cfg a <;> simp_all [State.flagI, bit7, State.ramByte_setRam, State.reg_setReg]
  intro r
  simp [eq_comm]

/-- A write ends only at a writable address. -/
theorem memWrite_eq_next {s t : State} {a : Word} {v : Byte} (h : memWrite s a v = .next t) :
    s.writable a ∧ storesByte s t a v ∧ (∀ r, t.reg r = s.regAfterStore a v r) ∧
      t.sp = s.spAfterStore a v ∧ t.pc = s.pc ∧ t.draws = s.draws := by
  have hw : s.writable a := by
    unfold State.writable
    refine ⟨fun e => ?_, fun e => ?_⟩ <;> · unfold memWrite at h; rw [e] at h; cases h
  obtain ⟨u, hu, rest⟩ := memWrite_of_writable v hw
  rw [hu] at h
  cases h
  exact ⟨hw, rest⟩

/-- When a write faults (R75). -/
theorem memWrite_eq_fault (s : State) (a : Word) (v : Byte) (f : Fault) :
    memWrite s a v = .fault f ↔ f = .dataOutside a ∧ placeOf s.cfg a = .outside := by
  unfold memWrite
  cases h : placeOf s.cfg a <;> simp [eq_comm]

/-- When a write is refused (R64). -/
theorem memWrite_eq_refused (s : State) (a : Word) (v : Byte) (r : Refusal) :
    memWrite s a v = .refused r ↔ r = .dataBelow0x20 ∧ placeOf s.cfg a = .noWindow := by
  unfold memWrite
  cases h : placeOf s.cfg a <;> simp [eq_comm]

/-! ### The map of the data space -/

/-- An address is outside exactly above `DATA_TOP` (R75). -/
theorem placeOf_eq_outside (c : Config) (a : Word) : placeOf c a = .outside ↔ c.dataTop < a := by
  unfold placeOf
  repeat' split
  all_goals simp_all

/-- The register window is absent only with `REGS_IN_DATA_SPACE` = false, below 0x20 (R64). -/
theorem placeOf_eq_noWindow (c : Config) (a : Word) :
    placeOf c a = .noWindow ↔ ¬ c.dataTop < a ∧ a < ioBase ∧ c.regsInDataSpace = false := by
  unfold placeOf
  repeat' split
  all_goals simp_all

/-- RAM lies from its first address, at 0x60 or above, up to `DATA_TOP` (R62). -/
theorem placeOf_eq_ram (c : Config) (a : Word) :
    placeOf c a = .ram ↔ ¬ c.dataTop < a ∧ ¬ a < 0x60#16 ∧ ¬ a < c.ramStart := by
  unfold placeOf ioBase rampzAddr eindAddr splAddr sphAddr sregAddr
  repeat' split
  all_goals simp_all
  all_goals (try bv_omega)

/-! ### The stack -/

/-- A push ends at a writable SP: the store at SP, then SP less one (R13). -/
theorem push8_of_writable {s : State} (v : Byte) (h : s.writable s.sp) :
    ∃ t, push8 s v = .next t ∧ storesByte s t s.sp v ∧ (∀ r, t.reg r = s.regAfterStore s.sp v r) ∧
      t.sp = s.spAfterStore s.sp v - 1#16 ∧ t.pc = s.pc ∧ t.draws = s.draws := by
  obtain ⟨u, hu, h1, h2, h3, h4, h5⟩ := memWrite_of_writable v h
  exact ⟨u.setSp (u.sp - 1#16), by simp [push8, hu], h1, h2, by simp [h3], h4, h5⟩

/-- A push onto RAM: that byte and SP, nothing else. -/
theorem push8_ram {s : State} (v : Byte) (h : placeOf s.cfg s.sp = .ram) :
    push8 s v = .next ((s.setRam s.sp v).setSp (s.sp - 1#16)) := by
  simp [push8, memWrite, h]

/-- A pop is the read at SP plus one (R13). -/
theorem pop8_of_seen {s : State} {v : Byte} (h : (s.setSp (s.sp + 1#16)).seen (s.sp + 1#16) = some v) :
    pop8 s = .next (v, (s.setSp (s.sp + 1#16)).afterRead (s.sp + 1#16)) := memRead_of_seen h

/-- A pop of a RAM byte that was written: the byte, and SP plus one. -/
theorem pop8_ram {s : State} {v : Byte} (h : placeOf s.cfg (s.sp + 1#16) = .ram) (hv : s.ramByte (s.sp + 1#16) = some v) :
    pop8 s = .next (v, s.setSp (s.sp + 1#16)) := by
  have hv' : Memory.read ramBlank s.ram (s.sp + 1#16).toNat = some v := hv
  simp only [pop8, memRead, State.setSp_cfg, h, readRam, State.setSp_ram, hv']

/-! ### Program memory -/

/-- The reachable program words lie within 2^PC_BITS (R61). -/
theorem Config.programWords_le (c : Config) : c.programWords ≤ 2 ^ c.pcBits := Nat.min_le_right ..

/-- With parameters a part can have, the reachable program words are the `FLASH_WORDS` (R61). -/
theorem Config.programWords_of_fit {c : Config} (h : parametersFit c) : c.programWords = c.flashWords := Nat.min_eq_left h.2

/-- A program word below `FLASH_WORDS` reads as its two bytes (R67). -/
theorem progWord_of_lt {s : State} {wa : Nat} (h : wa < s.cfg.programWords) :
    progWord s wa = .next (joinBytes (s.flashByte (2 * wa + 1)) (s.flashByte (2 * wa))) := if_pos h

/-- A program word at or above `FLASH_WORDS` faults (R75). -/
theorem progWord_of_ge {s : State} {wa : Nat} (h : s.cfg.programWords ≤ wa) :
    progWord s wa = .fault (.programOutside wa) := if_neg (Nat.not_lt.2 h)

/-- A program byte whose word is below `FLASH_WORDS` reads as that byte (R67). -/
theorem progByte_of_lt {s : State} {ba : Nat} (h : ba / 2 < s.cfg.programWords) : progByte s ba = .next (s.flashByte ba) := by
  unfold progByte
  rw [progWord_of_lt h]
  rcases Nat.mod_two_eq_zero_or_one ba with e | e
  · simp only [andThen_next, e, if_true, lowByte_joinBytes]
    congr 2; omega
  · simp only [andThen_next, e, Nat.one_ne_zero, if_false, highByte_joinBytes]
    congr 2; omega

/-- A program byte whose word is at or above `FLASH_WORDS` faults (R75). -/
theorem progByte_of_ge {s : State} {ba : Nat} (h : s.cfg.programWords ≤ ba / 2) :
    progByte s ba = .fault (.programOutside (ba / 2)) := by
  simp [progByte, progWord_of_ge h]

/-! ### Fetching and skipping -/

/-- A fetch inside `FLASH_WORDS` of a one-word instruction. -/
theorem fetch_one {s : State} {w : Word} (h : progWord s s.pc.toNat = .next w) (h1 : isTwoWord w = false) :
    fetch s = .next (w, 0#16) := by
  simp [fetch, h, h1]

/-- A fetch inside `FLASH_WORDS` of a two-word instruction. -/
theorem fetch_two {s : State} {w w2 : Word} (h : progWord s s.pc.toNat = .next w) (h1 : isTwoWord w = true)
    (h2 : progWord s (wrapPc s.cfg (s.pc + 1#22)).toNat = .next w2) : fetch s = .next (w, w2) := by
  simp [fetch, h, h1, h2]

/-- A skip whose condition fails goes on (R221). -/
theorem skip_false (s : State) : skip false s = .next (s.advance 1#22) := rfl

/-- A skip whose condition holds goes past the whole following instruction (R221). -/
theorem skip_true {s : State} (h : (s.pcAfter 1).toNat < s.cfg.programWords) :
    skip true s = .next (s.advance (if isTwoWord s.followingWord then 3#22 else 2#22)) := by
  have e : wrapPc s.cfg (s.pc + 1#22) = s.pcAfter 1 := wrapPc_add s 1#22
  simp only [skip, if_true, e, progWord_of_lt h, andThen_next]
  rfl

/-! ### Interrupts -/

/-- An interrupt is pending only with I = 1 and the inhibit clear, and is a source that requests (R314, R315). -/
theorem pendingInterrupt_eq_some {s : State} {src : IrqSource} (h : pendingInterrupt s = some src) :
    s.flagI = true ∧ s.inhibit = false ∧ src ∈ s.cfg.irqSources ∧ src.name ∈ s.presented := by
  unfold pendingInterrupt at h
  split at h
  · rename_i hc
    have hm := List.mem_of_find?_eq_some h
    have hp := List.find?_some h
    simp only [Bool.and_eq_true, Bool.not_eq_true'] at hc
    exact ⟨hc.1, hc.2, hm, by simpa using hp⟩
  · cases h

/-- With I = 0 no interrupt is pending (R314). -/
theorem pendingInterrupt_of_disabled {s : State} (h : s.flagI = false) : pendingInterrupt s = none := by
  have h' : s.sreg.getLsbD 7 = false := h
  unfold pendingInterrupt
  rw [h']
  rfl

/-- With the inhibit set no interrupt is pending (R318). -/
theorem pendingInterrupt_of_inhibit {s : State} (h : s.inhibit = true) : pendingInterrupt s = none := by
  simp [pendingInterrupt, h]

/-- With no request presented no interrupt is pending. -/
theorem pendingInterrupt_of_no_request {s : State} (h : s.presented = []) : pendingInterrupt s = none := by
  unfold pendingInterrupt
  split
  · simp [h]
  · rfl

/-- When an interrupt can still wake a sleeping core (R212, R314). -/
theorem State.canWake_iff (s : State) :
    s.canWake = true ↔ s.flagI = true ∧ s.inhibit = false ∧
      ∃ requesting ∈ s.requests, ∃ src ∈ s.cfg.irqSources, src.name ∈ requesting := by
  simp only [State.canWake, State.flagI, Bool.and_eq_true, Bool.not_eq_true', List.any_eq_true, List.contains_iff_mem,
    and_assoc]

/-- An interrupt that is pending is one that can wake. -/
theorem canWake_of_pending {s : State} {src : IrqSource} (h : pendingInterrupt s = some src) : s.canWake = true := by
  obtain ⟨h1, h2, h3, h4⟩ := pendingInterrupt_eq_some h
  refine (State.canWake_iff s).2 ⟨h1, h2, s.presented, ?_, src, h3, h4⟩
  unfold State.presented at h4 ⊢
  cases hr : s.requests <;> simp_all

/-- What a step of a sleeping core is (R212, R328). -/
theorem step_asleep {s : State} (h : s.sleeping = true) :
    step s = match pendingInterrupt s with
      | some src => takeInterrupt src s.passBoundary
      | none => if s.canWake then .next s.passBoundary else .refused .waitNeverEnds := by
  cases hp : pendingInterrupt s <;> simp [step, cycle, waitAsleep, hp, h]

/-- The checks before an indirect access pass, or stop by name (R170, R195). -/
theorem checkPointer_cases (p : Pointer) (r : Reg) (s : State) :
    (checkPointer p r s = .refused .pointerXYAbsent ∧ s.cfg.hasXY = false ∧ p ≠ .z) ∨
    (checkPointer p r s = .fault .pointerAsOperand ∧ p.holds r = true) ∨
    (checkPointer p r s = .next s ∧ p.holds r = false ∧ (s.cfg.hasXY = true ∨ p = .z)) := by
  unfold checkPointer
  cases s.cfg.hasXY <;> cases p.holds r <;> cases p <;> simp

/-- The checks pass. -/
theorem checkPointer_ok {p : Pointer} {r : Reg} {s : State} (h1 : s.cfg.hasXY = true ∨ p = .z) (h2 : p.holds r = false) :
    checkPointer p r s = .next s := by
  unfold checkPointer
  rcases h1 with h | h
  · simp [h, h2]
  · subst h; simp [h2]

end Sys2Proof.Machine
end

