-- ==== Sys2Proof/Laws/Encoding.lean ====
section
/-! SUPPORT. The sixteen bits of a word of each encoding format (R93 to R107), and the two-word test on bits (R91). -/

namespace Sys2Proof

/-- `IsTwoWord` by the bits it looks at (R91). -/
theorem isTwoWord_bits (w : Word) :
    isTwoWord w = (w.getLsbD 15 && !w.getLsbD 14 && !w.getLsbD 13 && w.getLsbD 12 && !w.getLsbD 11 &&
      ((!w.getLsbD 10 && !w.getLsbD 3 && !w.getLsbD 2 && !w.getLsbD 1 && !w.getLsbD 0) ||
       (w.getLsbD 10 && !w.getLsbD 9 && w.getLsbD 3 && w.getLsbD 2))) := by
  have h1 : ((w &&& 0xFC0F#16) == 0x9000#16) = (w.getLsbD 15 && !w.getLsbD 14 && !w.getLsbD 13 && w.getLsbD 12 && !w.getLsbD 11 &&
      (!w.getLsbD 10 && !w.getLsbD 3 && !w.getLsbD 2 && !w.getLsbD 1 && !w.getLsbD 0)) := by
    rw [Bool.eq_iff_iff]
    simp only [beq_iff_eq, Bool.and_eq_true, Bool.not_eq_true']
    constructor
    · intro h
      have g : ∀ i, (w &&& 0xFC0F#16).getLsbD i = (0x9000#16).getLsbD i := fun i => by rw [h]
      have e := fun i => (BitVec.getLsbD_and (x := w) (y := 0xFC0F#16) (i := i)).symm.trans (g i)
      refine ⟨⟨⟨⟨⟨?_, ?_⟩, ?_⟩, ?_⟩, ?_⟩, ⟨⟨⟨?_, ?_⟩, ?_⟩, ?_⟩, ?_⟩
      · simpa using e 15
      · simpa using e 14
      · simpa using e 13
      · simpa using e 12
      · simpa using e 11
      · simpa using e 10
      · simpa using e 3
      · simpa using e 2
      · simpa using e 1
      · simpa using e 0
    · rintro ⟨⟨⟨⟨⟨a, b⟩, c⟩, d⟩, e⟩, ⟨⟨⟨f, g⟩, h⟩, i⟩, j⟩
      apply BitVec.eq_of_getLsbD_eq
      intro k hk
      rw [BitVec.getLsbD_and]
      interval_cases k <;> simp_all
  have h2 : ((w &&& 0xFE0C#16) == 0x940C#16) = (w.getLsbD 15 && !w.getLsbD 14 && !w.getLsbD 13 && w.getLsbD 12 && !w.getLsbD 11 &&
      (w.getLsbD 10 && !w.getLsbD 9 && w.getLsbD 3 && w.getLsbD 2)) := by
    rw [Bool.eq_iff_iff]
    simp only [beq_iff_eq, Bool.and_eq_true, Bool.not_eq_true']
    constructor
    · intro h
      have g : ∀ i, (w &&& 0xFE0C#16).getLsbD i = (0x940C#16).getLsbD i := fun i => by rw [h]
      have e := fun i => (BitVec.getLsbD_and (x := w) (y := 0xFE0C#16) (i := i)).symm.trans (g i)
      refine ⟨⟨⟨⟨⟨?_, ?_⟩, ?_⟩, ?_⟩, ?_⟩, ⟨⟨?_, ?_⟩, ?_⟩, ?_⟩
      · simpa using e 15
      · simpa using e 14
      · simpa using e 13
      · simpa using e 12
      · simpa using e 11
      · simpa using e 10
      · simpa using e 9
      · simpa using e 3
      · simpa using e 2
    · rintro ⟨⟨⟨⟨⟨a, b⟩, c⟩, d⟩, e⟩, ⟨⟨f, g⟩, h⟩, i⟩
      apply BitVec.eq_of_getLsbD_eq
      intro k hk
      rw [BitVec.getLsbD_and]
      interval_cases k <;> simp_all
  unfold isTwoWord
  rw [h1, h2]
  generalize (w.getLsbD 15 && !w.getLsbD 14 && !w.getLsbD 13 && w.getLsbD 12 && !w.getLsbD 11) = x
  cases x <;> simp

/-- The bits of a word of format RR5. -/
theorem wordRR5_bits (op : BitVec 6) (d r : Reg) :
      (wordRR5 op d r).getLsbD 0 = r.getLsbD 0 ∧
      (wordRR5 op d r).getLsbD 1 = r.getLsbD 1 ∧
      (wordRR5 op d r).getLsbD 2 = r.getLsbD 2 ∧
      (wordRR5 op d r).getLsbD 3 = r.getLsbD 3 ∧
      (wordRR5 op d r).getLsbD 4 = d.getLsbD 0 ∧
      (wordRR5 op d r).getLsbD 5 = d.getLsbD 1 ∧
      (wordRR5 op d r).getLsbD 6 = d.getLsbD 2 ∧
      (wordRR5 op d r).getLsbD 7 = d.getLsbD 3 ∧
      (wordRR5 op d r).getLsbD 8 = d.getLsbD 4 ∧
      (wordRR5 op d r).getLsbD 9 = r.getLsbD 4 ∧
      (wordRR5 op d r).getLsbD 10 = op.getLsbD 0 ∧
      (wordRR5 op d r).getLsbD 11 = op.getLsbD 1 ∧
      (wordRR5 op d r).getLsbD 12 = op.getLsbD 2 ∧
      (wordRR5 op d r).getLsbD 13 = op.getLsbD 3 ∧
      (wordRR5 op d r).getLsbD 14 = op.getLsbD 4 ∧
      (wordRR5 op d r).getLsbD 15 = op.getLsbD 5 := by
  refine ⟨?_, ?_, ?_, ?_, ?_, ?_, ?_, ?_, ?_, ?_, ?_, ?_, ?_, ?_, ?_, ?_⟩ <;>
  · unfold wordRR5
    repeat rw [BitVec.getLsbD_append]
    simp

/-- The bits of a word of format IMM8. -/
theorem wordIMM8_bits (op : BitVec 4) (d : Reg) (k : Byte) :
      (wordIMM8 op d k).getLsbD 0 = k.getLsbD 0 ∧
      (wordIMM8 op d k).getLsbD 1 = k.getLsbD 1 ∧
      (wordIMM8 op d k).getLsbD 2 = k.getLsbD 2 ∧
      (wordIMM8 op d k).getLsbD 3 = k.getLsbD 3 ∧
      (wordIMM8 op d k).getLsbD 4 = d.getLsbD 0 ∧
      (wordIMM8 op d k).getLsbD 5 = d.getLsbD 1 ∧
      (wordIMM8 op d k).getLsbD 6 = d.getLsbD 2 ∧
      (wordIMM8 op d k).getLsbD 7 = d.getLsbD 3 ∧
      (wordIMM8 op d k).getLsbD 8 = k.getLsbD 4 ∧
      (wordIMM8 op d k).getLsbD 9 = k.getLsbD 5 ∧
      (wordIMM8 op d k).getLsbD 10 = k.getLsbD 6 ∧
      (wordIMM8 op d k).getLsbD 11 = k.getLsbD 7 ∧
      (wordIMM8 op d k).getLsbD 12 = op.getLsbD 0 ∧
      (wordIMM8 op d k).getLsbD 13 = op.getLsbD 1 ∧
      (wordIMM8 op d k).getLsbD 14 = op.getLsbD 2 ∧
      (wordIMM8 op d k).getLsbD 15 = op.getLsbD 3 := by
  refine ⟨?_, ?_, ?_, ?_, ?_, ?_, ?_, ?_, ?_, ?_, ?_, ?_, ?_, ?_, ?_, ?_⟩ <;>
  · unfold wordIMM8
    repeat rw [BitVec.getLsbD_append]
    simp

/-- The bits of a word of format IW. -/
theorem wordIW_bits (op : BitVec 1) (d : Reg) (k : BitVec 6) :
      (wordIW op d k).getLsbD 0 = k.getLsbD 0 ∧
      (wordIW op d k).getLsbD 1 = k.getLsbD 1 ∧
      (wordIW op d k).getLsbD 2 = k.getLsbD 2 ∧
      (wordIW op d k).getLsbD 3 = k.getLsbD 3 ∧
      (wordIW op d k).getLsbD 4 = d.getLsbD 1 ∧
      (wordIW op d k).getLsbD 5 = d.getLsbD 2 ∧
      (wordIW op d k).getLsbD 6 = k.getLsbD 4 ∧
      (wordIW op d k).getLsbD 7 = k.getLsbD 5 ∧
      (wordIW op d k).getLsbD 8 = op.getLsbD 0 ∧
      (wordIW op d k).getLsbD 9 = true ∧
      (wordIW op d k).getLsbD 10 = true ∧
      (wordIW op d k).getLsbD 11 = false ∧
      (wordIW op d k).getLsbD 12 = true ∧
      (wordIW op d k).getLsbD 13 = false ∧
      (wordIW op d k).getLsbD 14 = false ∧
      (wordIW op d k).getLsbD 15 = true := by
  refine ⟨?_, ?_, ?_, ?_, ?_, ?_, ?_, ?_, ?_, ?_, ?_, ?_, ?_, ?_, ?_, ?_⟩ <;>
  · unfold wordIW
    repeat rw [BitVec.getLsbD_append]
    simp

/-- The bits of a word of format R1. -/
theorem wordR1_bits (d : Reg) (op : BitVec 4) :
      (wordR1 d op).getLsbD 0 = op.getLsbD 0 ∧
      (wordR1 d op).getLsbD 1 = op.getLsbD 1 ∧
      (wordR1 d op).getLsbD 2 = op.getLsbD 2 ∧
      (wordR1 d op).getLsbD 3 = op.getLsbD 3 ∧
      (wordR1 d op).getLsbD 4 = d.getLsbD 0 ∧
      (wordR1 d op).getLsbD 5 = d.getLsbD 1 ∧
      (wordR1 d op).getLsbD 6 = d.getLsbD 2 ∧
      (wordR1 d op).getLsbD 7 = d.getLsbD 3 ∧
      (wordR1 d op).getLsbD 8 = d.getLsbD 4 ∧
      (wordR1 d op).getLsbD 9 = false ∧
      (wordR1 d op).getLsbD 10 = true ∧
      (wordR1 d op).getLsbD 11 = false ∧
      (wordR1 d op).getLsbD 12 = true ∧
      (wordR1 d op).getLsbD 13 = false ∧
      (wordR1 d op).getLsbD 14 = false ∧
      (wordR1 d op).getLsbD 15 = true := by
  refine ⟨?_, ?_, ?_, ?_, ?_, ?_, ?_, ?_, ?_, ?_, ?_, ?_, ?_, ?_, ?_, ?_⟩ <;>
  · unfold wordR1
    repeat rw [BitVec.getLsbD_append]
    simp

/-- The bits of a word of format RR4. -/
theorem wordRR4_bits (op : BitVec 2) (d r : BitVec 4) :
      (wordRR4 op d r).getLsbD 0 = r.getLsbD 0 ∧
      (wordRR4 op d r).getLsbD 1 = r.getLsbD 1 ∧
      (wordRR4 op d r).getLsbD 2 = r.getLsbD 2 ∧
      (wordRR4 op d r).getLsbD 3 = r.getLsbD 3 ∧
      (wordRR4 op d r).getLsbD 4 = d.getLsbD 0 ∧
      (wordRR4 op d r).getLsbD 5 = d.getLsbD 1 ∧
      (wordRR4 op d r).getLsbD 6 = d.getLsbD 2 ∧
      (wordRR4 op d r).getLsbD 7 = d.getLsbD 3 ∧
      (wordRR4 op d r).getLsbD 8 = op.getLsbD 0 ∧
      (wordRR4 op d r).getLsbD 9 = op.getLsbD 1 ∧
      (wordRR4 op d r).getLsbD 10 = false ∧
      (wordRR4 op d r).getLsbD 11 = false ∧
      (wordRR4 op d r).getLsbD 12 = false ∧
      (wordRR4 op d r).getLsbD 13 = false ∧
      (wordRR4 op d r).getLsbD 14 = false ∧
      (wordRR4 op d r).getLsbD 15 = false := by
  refine ⟨?_, ?_, ?_, ?_, ?_, ?_, ?_, ?_, ?_, ?_, ?_, ?_, ?_, ?_, ?_, ?_⟩ <;>
  · unfold wordRR4
    repeat rw [BitVec.getLsbD_append]
    simp

/-- The bits of a word of format RR3. -/
theorem wordRR3_bits (op1 : BitVec 1) (d : Reg) (op2 : BitVec 1) (r : Reg) :
      (wordRR3 op1 d op2 r).getLsbD 0 = r.getLsbD 0 ∧
      (wordRR3 op1 d op2 r).getLsbD 1 = r.getLsbD 1 ∧
      (wordRR3 op1 d op2 r).getLsbD 2 = r.getLsbD 2 ∧
      (wordRR3 op1 d op2 r).getLsbD 3 = op2.getLsbD 0 ∧
      (wordRR3 op1 d op2 r).getLsbD 4 = d.getLsbD 0 ∧
      (wordRR3 op1 d op2 r).getLsbD 5 = d.getLsbD 1 ∧
      (wordRR3 op1 d op2 r).getLsbD 6 = d.getLsbD 2 ∧
      (wordRR3 op1 d op2 r).getLsbD 7 = op1.getLsbD 0 ∧
      (wordRR3 op1 d op2 r).getLsbD 8 = true ∧
      (wordRR3 op1 d op2 r).getLsbD 9 = true ∧
      (wordRR3 op1 d op2 r).getLsbD 10 = false ∧
      (wordRR3 op1 d op2 r).getLsbD 11 = false ∧
      (wordRR3 op1 d op2 r).getLsbD 12 = false ∧
      (wordRR3 op1 d op2 r).getLsbD 13 = false ∧
      (wordRR3 op1 d op2 r).getLsbD 14 = false ∧
      (wordRR3 op1 d op2 r).getLsbD 15 = false := by
  refine ⟨?_, ?_, ?_, ?_, ?_, ?_, ?_, ?_, ?_, ?_, ?_, ?_, ?_, ?_, ?_, ?_⟩ <;>
  · unfold wordRR3
    repeat rw [BitVec.getLsbD_append]
    simp

/-- The bits of a word of format LDST. -/
theorem wordLDST_bits (s : BitVec 1) (d : Reg) (mode : BitVec 4) :
      (wordLDST s d mode).getLsbD 0 = mode.getLsbD 0 ∧
      (wordLDST s d mode).getLsbD 1 = mode.getLsbD 1 ∧
      (wordLDST s d mode).getLsbD 2 = mode.getLsbD 2 ∧
      (wordLDST s d mode).getLsbD 3 = mode.getLsbD 3 ∧
      (wordLDST s d mode).getLsbD 4 = d.getLsbD 0 ∧
      (wordLDST s d mode).getLsbD 5 = d.getLsbD 1 ∧
      (wordLDST s d mode).getLsbD 6 = d.getLsbD 2 ∧
      (wordLDST s d mode).getLsbD 7 = d.getLsbD 3 ∧
      (wordLDST s d mode).getLsbD 8 = d.getLsbD 4 ∧
      (wordLDST s d mode).getLsbD 9 = s.getLsbD 0 ∧
      (wordLDST s d mode).getLsbD 10 = false ∧
      (wordLDST s d mode).getLsbD 11 = false ∧
      (wordLDST s d mode).getLsbD 12 = true ∧
      (wordLDST s d mode).getLsbD 13 = false ∧
      (wordLDST s d mode).getLsbD 14 = false ∧
      (wordLDST s d mode).getLsbD 15 = true := by
  refine ⟨?_, ?_, ?_, ?_, ?_, ?_, ?_, ?_, ?_, ?_, ?_, ?_, ?_, ?_, ?_, ?_⟩ <;>
  · unfold wordLDST
    repeat rw [BitVec.getLsbD_append]
    simp

/-- The bits of a word of format DISP. -/
theorem wordDISP_bits (s z : BitVec 1) (d : Reg) (q : BitVec 6) :
      (wordDISP s z d q).getLsbD 0 = q.getLsbD 0 ∧
      (wordDISP s z d q).getLsbD 1 = q.getLsbD 1 ∧
      (wordDISP s z d q).getLsbD 2 = q.getLsbD 2 ∧
      (wordDISP s z d q).getLsbD 3 = z.getLsbD 0 ∧
      (wordDISP s z d q).getLsbD 4 = d.getLsbD 0 ∧
      (wordDISP s z d q).getLsbD 5 = d.getLsbD 1 ∧
      (wordDISP s z d q).getLsbD 6 = d.getLsbD 2 ∧
      (wordDISP s z d q).getLsbD 7 = d.getLsbD 3 ∧
      (wordDISP s z d q).getLsbD 8 = d.getLsbD 4 ∧
      (wordDISP s z d q).getLsbD 9 = s.getLsbD 0 ∧
      (wordDISP s z d q).getLsbD 10 = q.getLsbD 3 ∧
      (wordDISP s z d q).getLsbD 11 = q.getLsbD 4 ∧
      (wordDISP s z d q).getLsbD 12 = false ∧
      (wordDISP s z d q).getLsbD 13 = q.getLsbD 5 ∧
      (wordDISP s z d q).getLsbD 14 = false ∧
      (wordDISP s z d q).getLsbD 15 = true := by
  refine ⟨?_, ?_, ?_, ?_, ?_, ?_, ?_, ?_, ?_, ?_, ?_, ?_, ?_, ?_, ?_, ?_⟩ <;>
  · unfold wordDISP
    repeat rw [BitVec.getLsbD_append]
    simp

/-- The bits of a word of format IO. -/
theorem wordIO_bits (s : BitVec 1) (d : Reg) (a : BitVec 6) :
      (wordIO s d a).getLsbD 0 = a.getLsbD 0 ∧
      (wordIO s d a).getLsbD 1 = a.getLsbD 1 ∧
      (wordIO s d a).getLsbD 2 = a.getLsbD 2 ∧
      (wordIO s d a).getLsbD 3 = a.getLsbD 3 ∧
      (wordIO s d a).getLsbD 4 = d.getLsbD 0 ∧
      (wordIO s d a).getLsbD 5 = d.getLsbD 1 ∧
      (wordIO s d a).getLsbD 6 = d.getLsbD 2 ∧
      (wordIO s d a).getLsbD 7 = d.getLsbD 3 ∧
      (wordIO s d a).getLsbD 8 = d.getLsbD 4 ∧
      (wordIO s d a).getLsbD 9 = a.getLsbD 4 ∧
      (wordIO s d a).getLsbD 10 = a.getLsbD 5 ∧
      (wordIO s d a).getLsbD 11 = s.getLsbD 0 ∧
      (wordIO s d a).getLsbD 12 = true ∧
      (wordIO s d a).getLsbD 13 = true ∧
      (wordIO s d a).getLsbD 14 = false ∧
      (wordIO s d a).getLsbD 15 = true := by
  refine ⟨?_, ?_, ?_, ?_, ?_, ?_, ?_, ?_, ?_, ?_, ?_, ?_, ?_, ?_, ?_, ?_⟩ <;>
  · unfold wordIO
    repeat rw [BitVec.getLsbD_append]
    simp

/-- The bits of a word of format IOBIT. -/
theorem wordIOBIT_bits (op : BitVec 2) (a : BitVec 5) (b : BitVec 3) :
      (wordIOBIT op a b).getLsbD 0 = b.getLsbD 0 ∧
      (wordIOBIT op a b).getLsbD 1 = b.getLsbD 1 ∧
      (wordIOBIT op a b).getLsbD 2 = b.getLsbD 2 ∧
      (wordIOBIT op a b).getLsbD 3 = a.getLsbD 0 ∧
      (wordIOBIT op a b).getLsbD 4 = a.getLsbD 1 ∧
      (wordIOBIT op a b).getLsbD 5 = a.getLsbD 2 ∧
      (wordIOBIT op a b).getLsbD 6 = a.getLsbD 3 ∧
      (wordIOBIT op a b).getLsbD 7 = a.getLsbD 4 ∧
      (wordIOBIT op a b).getLsbD 8 = op.getLsbD 0 ∧
      (wordIOBIT op a b).getLsbD 9 = op.getLsbD 1 ∧
      (wordIOBIT op a b).getLsbD 10 = false ∧
      (wordIOBIT op a b).getLsbD 11 = true ∧
      (wordIOBIT op a b).getLsbD 12 = true ∧
      (wordIOBIT op a b).getLsbD 13 = false ∧
      (wordIOBIT op a b).getLsbD 14 = false ∧
      (wordIOBIT op a b).getLsbD 15 = true := by
  refine ⟨?_, ?_, ?_, ?_, ?_, ?_, ?_, ?_, ?_, ?_, ?_, ?_, ?_, ?_, ?_, ?_⟩ <;>
  · unfold wordIOBIT
    repeat rw [BitVec.getLsbD_append]
    simp

/-- The bits of a word of format REL12. -/
theorem wordREL12_bits (op : BitVec 1) (k : BitVec 12) :
      (wordREL12 op k).getLsbD 0 = k.getLsbD 0 ∧
      (wordREL12 op k).getLsbD 1 = k.getLsbD 1 ∧
      (wordREL12 op k).getLsbD 2 = k.getLsbD 2 ∧
      (wordREL12 op k).getLsbD 3 = k.getLsbD 3 ∧
      (wordREL12 op k).getLsbD 4 = k.getLsbD 4 ∧
      (wordREL12 op k).getLsbD 5 = k.getLsbD 5 ∧
      (wordREL12 op k).getLsbD 6 = k.getLsbD 6 ∧
      (wordREL12 op k).getLsbD 7 = k.getLsbD 7 ∧
      (wordREL12 op k).getLsbD 8 = k.getLsbD 8 ∧
      (wordREL12 op k).getLsbD 9 = k.getLsbD 9 ∧
      (wordREL12 op k).getLsbD 10 = k.getLsbD 10 ∧
      (wordREL12 op k).getLsbD 11 = k.getLsbD 11 ∧
      (wordREL12 op k).getLsbD 12 = op.getLsbD 0 ∧
      (wordREL12 op k).getLsbD 13 = false ∧
      (wordREL12 op k).getLsbD 14 = true ∧
      (wordREL12 op k).getLsbD 15 = true := by
  refine ⟨?_, ?_, ?_, ?_, ?_, ?_, ?_, ?_, ?_, ?_, ?_, ?_, ?_, ?_, ?_, ?_⟩ <;>
  · unfold wordREL12
    repeat rw [BitVec.getLsbD_append]
    simp

/-- The bits of a word of format ABS22. -/
theorem wordABS22_bits (op : BitVec 1) (k : PcAddr) :
      (wordABS22 op k).getLsbD 0 = k.getLsbD 16 ∧
      (wordABS22 op k).getLsbD 1 = op.getLsbD 0 ∧
      (wordABS22 op k).getLsbD 2 = true ∧
      (wordABS22 op k).getLsbD 3 = true ∧
      (wordABS22 op k).getLsbD 4 = k.getLsbD 17 ∧
      (wordABS22 op k).getLsbD 5 = k.getLsbD 18 ∧
      (wordABS22 op k).getLsbD 6 = k.getLsbD 19 ∧
      (wordABS22 op k).getLsbD 7 = k.getLsbD 20 ∧
      (wordABS22 op k).getLsbD 8 = k.getLsbD 21 ∧
      (wordABS22 op k).getLsbD 9 = false ∧
      (wordABS22 op k).getLsbD 10 = true ∧
      (wordABS22 op k).getLsbD 11 = false ∧
      (wordABS22 op k).getLsbD 12 = true ∧
      (wordABS22 op k).getLsbD 13 = false ∧
      (wordABS22 op k).getLsbD 14 = false ∧
      (wordABS22 op k).getLsbD 15 = true := by
  refine ⟨?_, ?_, ?_, ?_, ?_, ?_, ?_, ?_, ?_, ?_, ?_, ?_, ?_, ?_, ?_, ?_⟩ <;>
  · unfold wordABS22
    repeat rw [BitVec.getLsbD_append]
    simp

/-- The bits of a word of format BR. -/
theorem wordBR_bits (op : BitVec 1) (n : BitVec 3) (k : BitVec 7) :
      (wordBR op n k).getLsbD 0 = n.getLsbD 0 ∧
      (wordBR op n k).getLsbD 1 = n.getLsbD 1 ∧
      (wordBR op n k).getLsbD 2 = n.getLsbD 2 ∧
      (wordBR op n k).getLsbD 3 = k.getLsbD 0 ∧
      (wordBR op n k).getLsbD 4 = k.getLsbD 1 ∧
      (wordBR op n k).getLsbD 5 = k.getLsbD 2 ∧
      (wordBR op n k).getLsbD 6 = k.getLsbD 3 ∧
      (wordBR op n k).getLsbD 7 = k.getLsbD 4 ∧
      (wordBR op n k).getLsbD 8 = k.getLsbD 5 ∧
      (wordBR op n k).getLsbD 9 = k.getLsbD 6 ∧
      (wordBR op n k).getLsbD 10 = op.getLsbD 0 ∧
      (wordBR op n k).getLsbD 11 = false ∧
      (wordBR op n k).getLsbD 12 = true ∧
      (wordBR op n k).getLsbD 13 = true ∧
      (wordBR op n k).getLsbD 14 = true ∧
      (wordBR op n k).getLsbD 15 = true := by
  refine ⟨?_, ?_, ?_, ?_, ?_, ?_, ?_, ?_, ?_, ?_, ?_, ?_, ?_, ?_, ?_, ?_⟩ <;>
  · unfold wordBR
    repeat rw [BitVec.getLsbD_append]
    simp

/-- The bits of a word of format RBIT. -/
theorem wordRBIT_bits (op : BitVec 2) (d : Reg) (b : BitVec 3) :
      (wordRBIT op d b).getLsbD 0 = b.getLsbD 0 ∧
      (wordRBIT op d b).getLsbD 1 = b.getLsbD 1 ∧
      (wordRBIT op d b).getLsbD 2 = b.getLsbD 2 ∧
      (wordRBIT op d b).getLsbD 3 = false ∧
      (wordRBIT op d b).getLsbD 4 = d.getLsbD 0 ∧
      (wordRBIT op d b).getLsbD 5 = d.getLsbD 1 ∧
      (wordRBIT op d b).getLsbD 6 = d.getLsbD 2 ∧
      (wordRBIT op d b).getLsbD 7 = d.getLsbD 3 ∧
      (wordRBIT op d b).getLsbD 8 = d.getLsbD 4 ∧
      (wordRBIT op d b).getLsbD 9 = op.getLsbD 0 ∧
      (wordRBIT op d b).getLsbD 10 = op.getLsbD 1 ∧
      (wordRBIT op d b).getLsbD 11 = true ∧
      (wordRBIT op d b).getLsbD 12 = true ∧
      (wordRBIT op d b).getLsbD 13 = true ∧
      (wordRBIT op d b).getLsbD 14 = true ∧
      (wordRBIT op d b).getLsbD 15 = true := by
  refine ⟨?_, ?_, ?_, ?_, ?_, ?_, ?_, ?_, ?_, ?_, ?_, ?_, ?_, ?_, ?_, ?_⟩ <;>
  · unfold wordRBIT
    repeat rw [BitVec.getLsbD_append]
    simp

/-- The bits of a word of format SREGOP. -/
theorem wordSREGOP_bits (op : BitVec 1) (n : BitVec 3) :
      (wordSREGOP op n).getLsbD 0 = false ∧
      (wordSREGOP op n).getLsbD 1 = false ∧
      (wordSREGOP op n).getLsbD 2 = false ∧
      (wordSREGOP op n).getLsbD 3 = true ∧
      (wordSREGOP op n).getLsbD 4 = n.getLsbD 0 ∧
      (wordSREGOP op n).getLsbD 5 = n.getLsbD 1 ∧
      (wordSREGOP op n).getLsbD 6 = n.getLsbD 2 ∧
      (wordSREGOP op n).getLsbD 7 = op.getLsbD 0 ∧
      (wordSREGOP op n).getLsbD 8 = false ∧
      (wordSREGOP op n).getLsbD 9 = false ∧
      (wordSREGOP op n).getLsbD 10 = true ∧
      (wordSREGOP op n).getLsbD 11 = false ∧
      (wordSREGOP op n).getLsbD 12 = true ∧
      (wordSREGOP op n).getLsbD 13 = false ∧
      (wordSREGOP op n).getLsbD 14 = false ∧
      (wordSREGOP op n).getLsbD 15 = true := by
  refine ⟨?_, ?_, ?_, ?_, ?_, ?_, ?_, ?_, ?_, ?_, ?_, ?_, ?_, ?_, ?_, ?_⟩ <;>
  · unfold wordSREGOP
    repeat rw [BitVec.getLsbD_append]
    simp

end Sys2Proof
end

