-- ==== Sys2Proof/Laws/Frame.lean ====
section
/-! SUPPORT. The frames of the updates instructions are made of: what each keeps, said once. -/

namespace Sys2Proof.Machine

theorem bit3_cases (n : BitVec 3) :
    n = 0#3 ∨ n = 1#3 ∨ n = 2#3 ∨ n = 3#3 ∨ n = 4#3 ∨ n = 5#3 ∨ n = 6#3 ∨ n = 7#3 := by
  revert n; decide

/-- The sign bit as a bound (R7). -/
theorem bit7_eq_ge (v : Byte) : bit7 v = decide (128 ≤ v.toNat) := by
  rw [bit7_eq_toInt_neg, BitVec.toInt_eq_toNat_cond]
  have := v.isLt
  simp only [decide_eq_decide]
  split <;> omega

/-- Bit 3 as a bound on the low digit (R130, R131). -/
theorem bitOf_three_eq_ge (v : Byte) : bitOf v 3#3 = decide (8 ≤ v.toNat % 16) := by
  revert v; decide +kernel

theorem addResult_toNat (a b : Byte) (c : Bool) :
    (addResult a b c).toNat = (a.toNat + b.toNat + c.toNat) % 256 := by
  simp [addResult]

theorem subResult_toNat (a b : Byte) (c : Bool) :
    (subResult a b c).toNat = (a.toNat + 512 - b.toNat - c.toNat) % 256 := by
  have ha := a.isLt
  have hb := b.isLt
  have hc := c.toNat_le
  simp only [subResult, BitVec.toNat_sub, BitVec.toNat_ofNat]
  omega

/-- The advance of the pc keeps everything else. -/
theorem keepsRest_advance (s : State) (n : PcAddr) : keepsRest s (s.advance n) [] [] :=
  ⟨fun _ _ => rfl, fun _ _ => rfl, rfl, ⟨rfl, rfl, rfl⟩, ⟨rfl, rfl, rfl⟩, fun _ => rfl, fun _ => rfl, rfl, rfl⟩

/-- Setting the pc keeps everything else. -/
theorem keepsRest_setPc (s : State) (v : PcAddr) : keepsRest s (s.setPc v) [] [] :=
  ⟨fun _ _ => rfl, fun _ _ => rfl, rfl, ⟨rfl, rfl, rfl⟩, ⟨rfl, rfl, rfl⟩, fun _ => rfl, fun _ => rfl, rfl, rfl⟩

/-- Frames compose: what two instructions in sequence may change is what either may. -/
theorem keepsRest_trans {s t u : State} {r1 r2 : List Reg} {f1 f2 : List (BitVec 3)}
    (h1 : keepsRest s t r1 f1) (h2 : keepsRest t u r2 f2) : keepsRest s u (r1 ++ r2) (f1 ++ f2) := by
  obtain ⟨a1, b1, c1, ⟨d1, e1, g1⟩, ⟨h1, i1, j1⟩, k1, l1, m1, n1⟩ := h1
  obtain ⟨a2, b2, c2, ⟨d2, e2, g2⟩, ⟨h2, i2, j2⟩, k2, l2, m2, n2⟩ := h2
  refine ⟨fun r hr => ?_, fun n hn => ?_, c2.trans c1, ⟨d2.trans d1, e2.trans e1, g2.trans g1⟩,
    ⟨h2.trans h1, i2.trans i1, j2.trans j1⟩, fun a => (k2 a).trans (k1 a), fun a => (l2 a).trans (l1 a),
    m2.trans m1, n2.trans n1⟩
  · simp only [List.mem_append, not_or] at hr
    exact (a2 r hr.2).trans (a1 r hr.1)
  · simp only [List.mem_append, not_or] at hn
    exact (b2 n hn.2).trans (b1 n hn.1)

/-- A register write keeps all but that register. -/
theorem keepsRest_setReg (s : State) (d : Reg) (v : Byte) : keepsRest s (s.setReg d v) [d] [] := by
  refine ⟨fun r hr => ?_, fun _ _ => rfl, rfl, ⟨rfl, rfl, rfl⟩, ⟨rfl, rfl, rfl⟩, fun _ => rfl, fun _ => rfl, rfl, rfl⟩
  exact State.reg_setReg_other s v (by simpa using hr)

/-- A pair write keeps all but its two registers. -/
theorem keepsRest_setPair (s : State) (d : Reg) (v : Word) : keepsRest s (s.setPair d v) [d, d + 1#5] [] := by
  refine ⟨fun r hr => ?_, fun _ _ => rfl, rfl, ⟨rfl, rfl, rfl⟩, ⟨rfl, rfl, rfl⟩, fun _ => rfl, fun _ => rfl, rfl, rfl⟩
  simp only [List.mem_cons, List.not_mem_nil, or_false, not_or] at hr
  exact State.reg_setPair_other s v hr.1 hr.2

/-- A write of SREG keeps all but the flags that differ. -/
theorem keepsRest_setSreg (s : State) (v : Byte) (flags : List (BitVec 3))
    (h : ∀ n, n ∉ flags → bitOf v n = bitOf s.sreg n) : keepsRest s (s.setSreg v) [] flags :=
  ⟨fun _ _ => rfl, h, rfl, ⟨rfl, rfl, rfl⟩, ⟨rfl, rfl, rfl⟩, fun _ => rfl, fun _ => rfl, rfl, rfl⟩

/-- H, S, V, N, Z, C written: I, T and the rest kept. -/
theorem keepsRest_setHSVNZC (s : State) (f : FlagValues) :
    keepsRest s (s.setHSVNZC f) [] [0#3, 1#3, 2#3, 3#3, 4#3, 5#3] := by
  refine keepsRest_setSreg s _ _ fun n hn => ?_
  rcases bit3_cases n with rfl | rfl | rfl | rfl | rfl | rfl | rfl | rfl <;> simp at hn
  · exact packSreg_bit6 ..
  · exact packSreg_bit7 ..

/-- S, V, N, Z, C written: I, T, H and the rest kept. -/
theorem keepsRest_setSVNZC (s : State) (f : FlagValues) :
    keepsRest s (s.setSVNZC f) [] [0#3, 1#3, 2#3, 3#3, 4#3] := by
  refine keepsRest_setSreg s _ _ fun n hn => ?_
  rcases bit3_cases n with rfl | rfl | rfl | rfl | rfl | rfl | rfl | rfl <;> simp at hn
  · exact packSreg_bit5 ..
  · exact packSreg_bit6 ..
  · exact packSreg_bit7 ..

/-- S, V, N, Z written: I, T, H, C and the rest kept. -/
theorem keepsRest_setSVNZ (s : State) (v n z : Bool) :
    keepsRest s (s.setSVNZ v n z) [] [1#3, 2#3, 3#3, 4#3] := by
  refine keepsRest_setSreg s _ _ fun n hn => ?_
  rcases bit3_cases n with rfl | rfl | rfl | rfl | rfl | rfl | rfl | rfl <;> simp at hn
  · exact packSreg_bit0 ..
  · exact packSreg_bit5 ..
  · exact packSreg_bit6 ..
  · exact packSreg_bit7 ..

/-- Z, C written: the other six and the rest kept. -/
theorem keepsRest_setZC (s : State) (z c : Bool) : keepsRest s (s.setZC z c) [] [0#3, 1#3] := by
  refine keepsRest_setSreg s _ _ fun n hn => ?_
  rcases bit3_cases n with rfl | rfl | rfl | rfl | rfl | rfl | rfl | rfl <;> simp at hn
  · exact packSreg_bit2 ..
  · exact packSreg_bit3 ..
  · exact packSreg_bit4 ..
  · exact packSreg_bit5 ..
  · exact packSreg_bit6 ..
  · exact packSreg_bit7 ..

/-- The shape of most instructions that compute: a register or pair, then flags, then the pc. -/
theorem keepsRest_compute {s t u : State} {registers : List Reg} {flags : List (BitVec 3)} (n : PcAddr)
    (h1 : keepsRest s t registers []) (h2 : keepsRest t u [] flags) : keepsRest s (u.advance n) registers flags := by
  have h := keepsRest_trans (keepsRest_trans h1 h2) (keepsRest_advance u n)
  simpa using h

end Sys2Proof.Machine
end

