-- ==== Sys2Proof/Laws/PerInstr.lean ====
section
/-! SUPPORT. Statements about every instruction as syntax, one lemma per constructor. -/

set_option Elab.async false

namespace Sys2Proof.Laws

/-- The length an encoding has is the length its first word announces (R90, R91). -/
def EncodedLength.Statement (i : Instr) : Prop := i.length = if isTwoWord (encodeFirst i) then 2 else 1

theorem EncodedLength.add (d : Reg) (r : Reg) : EncodedLength.Statement (.add d r) := by
  simp only [EncodedLength.Statement, Instr.length, encode, encodeFirst, isTwoWord_bits, wordRR5_bits]
  simp

theorem EncodedLength.adc (d : Reg) (r : Reg) : EncodedLength.Statement (.adc d r) := by
  simp only [EncodedLength.Statement, Instr.length, encode, encodeFirst, isTwoWord_bits, wordRR5_bits]
  simp

theorem EncodedLength.adiw (d : Reg) (k : BitVec 6) : EncodedLength.Statement (.adiw d k) := by
  simp only [EncodedLength.Statement, Instr.length, encode, encodeFirst, isTwoWord_bits, wordIW_bits]
  simp

theorem EncodedLength.sub (d : Reg) (r : Reg) : EncodedLength.Statement (.sub d r) := by
  simp only [EncodedLength.Statement, Instr.length, encode, encodeFirst, isTwoWord_bits, wordRR5_bits]
  simp

theorem EncodedLength.subi (d : Reg) (k : Byte) : EncodedLength.Statement (.subi d k) := by
  simp only [EncodedLength.Statement, Instr.length, encode, encodeFirst, isTwoWord_bits, wordIMM8_bits]
  simp

theorem EncodedLength.sbc (d : Reg) (r : Reg) : EncodedLength.Statement (.sbc d r) := by
  simp only [EncodedLength.Statement, Instr.length, encode, encodeFirst, isTwoWord_bits, wordRR5_bits]
  simp

theorem EncodedLength.sbci (d : Reg) (k : Byte) : EncodedLength.Statement (.sbci d k) := by
  simp only [EncodedLength.Statement, Instr.length, encode, encodeFirst, isTwoWord_bits, wordIMM8_bits]
  simp

theorem EncodedLength.sbiw (d : Reg) (k : BitVec 6) : EncodedLength.Statement (.sbiw d k) := by
  simp only [EncodedLength.Statement, Instr.length, encode, encodeFirst, isTwoWord_bits, wordIW_bits]
  simp

theorem EncodedLength.and (d : Reg) (r : Reg) : EncodedLength.Statement (.and d r) := by
  simp only [EncodedLength.Statement, Instr.length, encode, encodeFirst, isTwoWord_bits, wordRR5_bits]
  simp

theorem EncodedLength.andi (d : Reg) (k : Byte) : EncodedLength.Statement (.andi d k) := by
  simp only [EncodedLength.Statement, Instr.length, encode, encodeFirst, isTwoWord_bits, wordIMM8_bits]
  simp

theorem EncodedLength.or (d : Reg) (r : Reg) : EncodedLength.Statement (.or d r) := by
  simp only [EncodedLength.Statement, Instr.length, encode, encodeFirst, isTwoWord_bits, wordRR5_bits]
  simp

theorem EncodedLength.ori (d : Reg) (k : Byte) : EncodedLength.Statement (.ori d k) := by
  simp only [EncodedLength.Statement, Instr.length, encode, encodeFirst, isTwoWord_bits, wordIMM8_bits]
  simp

theorem EncodedLength.eor (d : Reg) (r : Reg) : EncodedLength.Statement (.eor d r) := by
  simp only [EncodedLength.Statement, Instr.length, encode, encodeFirst, isTwoWord_bits, wordRR5_bits]
  simp

theorem EncodedLength.com (d : Reg) : EncodedLength.Statement (.com d) := by
  simp only [EncodedLength.Statement, Instr.length, encode, encodeFirst, isTwoWord_bits, wordR1_bits]
  simp

theorem EncodedLength.neg (d : Reg) : EncodedLength.Statement (.neg d) := by
  simp only [EncodedLength.Statement, Instr.length, encode, encodeFirst, isTwoWord_bits, wordR1_bits]
  simp

theorem EncodedLength.sbr (d : Reg) (k : Byte) : EncodedLength.Statement (.sbr d k) := by
  simp only [EncodedLength.Statement, Instr.length, encode, encodeFirst, isTwoWord_bits, wordIMM8_bits]
  simp

theorem EncodedLength.cbr (d : Reg) (k : Byte) : EncodedLength.Statement (.cbr d k) := by
  simp only [EncodedLength.Statement, Instr.length, encode, encodeFirst, isTwoWord_bits, wordIMM8_bits]
  simp

theorem EncodedLength.inc (d : Reg) : EncodedLength.Statement (.inc d) := by
  simp only [EncodedLength.Statement, Instr.length, encode, encodeFirst, isTwoWord_bits, wordR1_bits]
  simp

theorem EncodedLength.dec (d : Reg) : EncodedLength.Statement (.dec d) := by
  simp only [EncodedLength.Statement, Instr.length, encode, encodeFirst, isTwoWord_bits, wordR1_bits]
  simp

theorem EncodedLength.tst (r : Reg) : EncodedLength.Statement (.tst r) := by
  simp only [EncodedLength.Statement, Instr.length, encode, encodeFirst, isTwoWord_bits, wordRR5_bits]
  simp

theorem EncodedLength.clr (d : Reg) : EncodedLength.Statement (.clr d) := by
  simp only [EncodedLength.Statement, Instr.length, encode, encodeFirst, isTwoWord_bits, wordRR5_bits]
  simp

theorem EncodedLength.ser (d : Reg) : EncodedLength.Statement (.ser d) := by
  simp only [EncodedLength.Statement, Instr.length, encode, encodeFirst, isTwoWord_bits, wordIMM8_bits]
  simp

theorem EncodedLength.mul (d : Reg) (r : Reg) : EncodedLength.Statement (.mul d r) := by
  simp only [EncodedLength.Statement, Instr.length, encode, encodeFirst, isTwoWord_bits, wordRR5_bits]
  simp

theorem EncodedLength.muls (d : Reg) (r : Reg) : EncodedLength.Statement (.muls d r) := by
  simp only [EncodedLength.Statement, Instr.length, encode, encodeFirst, isTwoWord_bits, wordRR4_bits]
  simp

theorem EncodedLength.mulsu (d : Reg) (r : Reg) : EncodedLength.Statement (.mulsu d r) := by
  simp only [EncodedLength.Statement, Instr.length, encode, encodeFirst, isTwoWord_bits, wordRR3_bits]
  simp

theorem EncodedLength.fmul (d : Reg) (r : Reg) : EncodedLength.Statement (.fmul d r) := by
  simp only [EncodedLength.Statement, Instr.length, encode, encodeFirst, isTwoWord_bits, wordRR3_bits]
  simp

theorem EncodedLength.fmuls (d : Reg) (r : Reg) : EncodedLength.Statement (.fmuls d r) := by
  simp only [EncodedLength.Statement, Instr.length, encode, encodeFirst, isTwoWord_bits, wordRR3_bits]
  simp

theorem EncodedLength.fmulsu (d : Reg) (r : Reg) : EncodedLength.Statement (.fmulsu d r) := by
  simp only [EncodedLength.Statement, Instr.length, encode, encodeFirst, isTwoWord_bits, wordRR3_bits]
  simp

theorem EncodedLength.mov (d : Reg) (r : Reg) : EncodedLength.Statement (.mov d r) := by
  simp only [EncodedLength.Statement, Instr.length, encode, encodeFirst, isTwoWord_bits, wordRR5_bits]
  simp

theorem EncodedLength.movw (d : Reg) (r : Reg) : EncodedLength.Statement (.movw d r) := by
  simp only [EncodedLength.Statement, Instr.length, encode, encodeFirst, isTwoWord_bits, wordRR4_bits]
  simp

theorem EncodedLength.ldi (d : Reg) (k : Byte) : EncodedLength.Statement (.ldi d k) := by
  simp only [EncodedLength.Statement, Instr.length, encode, encodeFirst, isTwoWord_bits, wordIMM8_bits]
  simp

theorem EncodedLength.lds (d : Reg) (k : Word) : EncodedLength.Statement (.lds d k) := by
  simp only [EncodedLength.Statement, Instr.length, encode, encodeFirst, isTwoWord_bits, wordLDST_bits]
  simp

theorem EncodedLength.ldX (d : Reg) : EncodedLength.Statement (.ldX d) := by
  simp only [EncodedLength.Statement, Instr.length, encode, encodeFirst, isTwoWord_bits, wordLDST_bits]
  simp

theorem EncodedLength.ldY (d : Reg) : EncodedLength.Statement (.ldY d) := by
  simp only [EncodedLength.Statement, Instr.length, encode, encodeFirst, isTwoWord_bits, wordDISP_bits]
  simp

theorem EncodedLength.ldZ (d : Reg) : EncodedLength.Statement (.ldZ d) := by
  simp only [EncodedLength.Statement, Instr.length, encode, encodeFirst, isTwoWord_bits, wordDISP_bits]
  simp

theorem EncodedLength.ldXInc (d : Reg) : EncodedLength.Statement (.ldXInc d) := by
  simp only [EncodedLength.Statement, Instr.length, encode, encodeFirst, isTwoWord_bits, wordLDST_bits]
  simp

theorem EncodedLength.ldYInc (d : Reg) : EncodedLength.Statement (.ldYInc d) := by
  simp only [EncodedLength.Statement, Instr.length, encode, encodeFirst, isTwoWord_bits, wordLDST_bits]
  simp

theorem EncodedLength.ldZInc (d : Reg) : EncodedLength.Statement (.ldZInc d) := by
  simp only [EncodedLength.Statement, Instr.length, encode, encodeFirst, isTwoWord_bits, wordLDST_bits]
  simp

theorem EncodedLength.ldXDec (d : Reg) : EncodedLength.Statement (.ldXDec d) := by
  simp only [EncodedLength.Statement, Instr.length, encode, encodeFirst, isTwoWord_bits, wordLDST_bits]
  simp

theorem EncodedLength.ldYDec (d : Reg) : EncodedLength.Statement (.ldYDec d) := by
  simp only [EncodedLength.Statement, Instr.length, encode, encodeFirst, isTwoWord_bits, wordLDST_bits]
  simp

theorem EncodedLength.ldZDec (d : Reg) : EncodedLength.Statement (.ldZDec d) := by
  simp only [EncodedLength.Statement, Instr.length, encode, encodeFirst, isTwoWord_bits, wordLDST_bits]
  simp

theorem EncodedLength.lddY (d : Reg) (q : BitVec 6) : EncodedLength.Statement (.lddY d q) := by
  simp only [EncodedLength.Statement, Instr.length, encode, encodeFirst, isTwoWord_bits, wordDISP_bits]
  simp

theorem EncodedLength.lddZ (d : Reg) (q : BitVec 6) : EncodedLength.Statement (.lddZ d q) := by
  simp only [EncodedLength.Statement, Instr.length, encode, encodeFirst, isTwoWord_bits, wordDISP_bits]
  simp

theorem EncodedLength.sts (k : Word) (r : Reg) : EncodedLength.Statement (.sts k r) := by
  simp only [EncodedLength.Statement, Instr.length, encode, encodeFirst, isTwoWord_bits, wordLDST_bits]
  simp

theorem EncodedLength.stX (r : Reg) : EncodedLength.Statement (.stX r) := by
  simp only [EncodedLength.Statement, Instr.length, encode, encodeFirst, isTwoWord_bits, wordLDST_bits]
  simp

theorem EncodedLength.stY (r : Reg) : EncodedLength.Statement (.stY r) := by
  simp only [EncodedLength.Statement, Instr.length, encode, encodeFirst, isTwoWord_bits, wordDISP_bits]
  simp

theorem EncodedLength.stZ (r : Reg) : EncodedLength.Statement (.stZ r) := by
  simp only [EncodedLength.Statement, Instr.length, encode, encodeFirst, isTwoWord_bits, wordDISP_bits]
  simp

theorem EncodedLength.stXInc (r : Reg) : EncodedLength.Statement (.stXInc r) := by
  simp only [EncodedLength.Statement, Instr.length, encode, encodeFirst, isTwoWord_bits, wordLDST_bits]
  simp

theorem EncodedLength.stYInc (r : Reg) : EncodedLength.Statement (.stYInc r) := by
  simp only [EncodedLength.Statement, Instr.length, encode, encodeFirst, isTwoWord_bits, wordLDST_bits]
  simp

theorem EncodedLength.stZInc (r : Reg) : EncodedLength.Statement (.stZInc r) := by
  simp only [EncodedLength.Statement, Instr.length, encode, encodeFirst, isTwoWord_bits, wordLDST_bits]
  simp

theorem EncodedLength.stXDec (r : Reg) : EncodedLength.Statement (.stXDec r) := by
  simp only [EncodedLength.Statement, Instr.length, encode, encodeFirst, isTwoWord_bits, wordLDST_bits]
  simp

theorem EncodedLength.stYDec (r : Reg) : EncodedLength.Statement (.stYDec r) := by
  simp only [EncodedLength.Statement, Instr.length, encode, encodeFirst, isTwoWord_bits, wordLDST_bits]
  simp

theorem EncodedLength.stZDec (r : Reg) : EncodedLength.Statement (.stZDec r) := by
  simp only [EncodedLength.Statement, Instr.length, encode, encodeFirst, isTwoWord_bits, wordLDST_bits]
  simp

theorem EncodedLength.stdY (q : BitVec 6) (r : Reg) : EncodedLength.Statement (.stdY q r) := by
  simp only [EncodedLength.Statement, Instr.length, encode, encodeFirst, isTwoWord_bits, wordDISP_bits]
  simp

theorem EncodedLength.stdZ (q : BitVec 6) (r : Reg) : EncodedLength.Statement (.stdZ q r) := by
  simp only [EncodedLength.Statement, Instr.length, encode, encodeFirst, isTwoWord_bits, wordDISP_bits]
  simp

theorem EncodedLength.lpm : EncodedLength.Statement (.lpm) := by
  unfold EncodedLength.Statement; decide

theorem EncodedLength.lpmZ (d : Reg) : EncodedLength.Statement (.lpmZ d) := by
  simp only [EncodedLength.Statement, Instr.length, encode, encodeFirst, isTwoWord_bits, wordLDST_bits]
  simp

theorem EncodedLength.lpmZInc (d : Reg) : EncodedLength.Statement (.lpmZInc d) := by
  simp only [EncodedLength.Statement, Instr.length, encode, encodeFirst, isTwoWord_bits, wordLDST_bits]
  simp

theorem EncodedLength.elpm : EncodedLength.Statement (.elpm) := by
  unfold EncodedLength.Statement; decide

theorem EncodedLength.elpmZ (d : Reg) : EncodedLength.Statement (.elpmZ d) := by
  simp only [EncodedLength.Statement, Instr.length, encode, encodeFirst, isTwoWord_bits, wordLDST_bits]
  simp

theorem EncodedLength.elpmZInc (d : Reg) : EncodedLength.Statement (.elpmZInc d) := by
  simp only [EncodedLength.Statement, Instr.length, encode, encodeFirst, isTwoWord_bits, wordLDST_bits]
  simp

theorem EncodedLength.spm : EncodedLength.Statement (.spm) := by
  unfold EncodedLength.Statement; decide

theorem EncodedLength.ioIn (d : Reg) (a : BitVec 6) : EncodedLength.Statement (.ioIn d a) := by
  simp only [EncodedLength.Statement, Instr.length, encode, encodeFirst, isTwoWord_bits, wordIO_bits]
  simp

theorem EncodedLength.ioOut (a : BitVec 6) (r : Reg) : EncodedLength.Statement (.ioOut a r) := by
  simp only [EncodedLength.Statement, Instr.length, encode, encodeFirst, isTwoWord_bits, wordIO_bits]
  simp

theorem EncodedLength.push (r : Reg) : EncodedLength.Statement (.push r) := by
  simp only [EncodedLength.Statement, Instr.length, encode, encodeFirst, isTwoWord_bits, wordLDST_bits]
  simp

theorem EncodedLength.pop (d : Reg) : EncodedLength.Statement (.pop d) := by
  simp only [EncodedLength.Statement, Instr.length, encode, encodeFirst, isTwoWord_bits, wordLDST_bits]
  simp

theorem EncodedLength.brk : EncodedLength.Statement (.brk) := by
  unfold EncodedLength.Statement; decide

theorem EncodedLength.nop : EncodedLength.Statement (.nop) := by
  unfold EncodedLength.Statement; decide

theorem EncodedLength.sleep : EncodedLength.Statement (.sleep) := by
  unfold EncodedLength.Statement; decide

theorem EncodedLength.wdr : EncodedLength.Statement (.wdr) := by
  unfold EncodedLength.Statement; decide

theorem EncodedLength.rjmp (k : BitVec 12) : EncodedLength.Statement (.rjmp k) := by
  simp only [EncodedLength.Statement, Instr.length, encode, encodeFirst, isTwoWord_bits, wordREL12_bits]
  simp

theorem EncodedLength.ijmp : EncodedLength.Statement (.ijmp) := by
  unfold EncodedLength.Statement; decide

theorem EncodedLength.eijmp : EncodedLength.Statement (.eijmp) := by
  unfold EncodedLength.Statement; decide

theorem EncodedLength.jmp (k : PcAddr) : EncodedLength.Statement (.jmp k) := by
  simp only [EncodedLength.Statement, Instr.length, encode, encodeFirst, isTwoWord_bits, wordABS22_bits]
  simp

theorem EncodedLength.rcall (k : BitVec 12) : EncodedLength.Statement (.rcall k) := by
  simp only [EncodedLength.Statement, Instr.length, encode, encodeFirst, isTwoWord_bits, wordREL12_bits]
  simp

theorem EncodedLength.icall : EncodedLength.Statement (.icall) := by
  unfold EncodedLength.Statement; decide

theorem EncodedLength.eicall : EncodedLength.Statement (.eicall) := by
  unfold EncodedLength.Statement; decide

theorem EncodedLength.call (k : PcAddr) : EncodedLength.Statement (.call k) := by
  simp only [EncodedLength.Statement, Instr.length, encode, encodeFirst, isTwoWord_bits, wordABS22_bits]
  simp

theorem EncodedLength.ret : EncodedLength.Statement (.ret) := by
  unfold EncodedLength.Statement; decide

theorem EncodedLength.reti : EncodedLength.Statement (.reti) := by
  unfold EncodedLength.Statement; decide

theorem EncodedLength.cpse (d : Reg) (r : Reg) : EncodedLength.Statement (.cpse d r) := by
  simp only [EncodedLength.Statement, Instr.length, encode, encodeFirst, isTwoWord_bits, wordRR5_bits]
  simp

theorem EncodedLength.cp (d : Reg) (r : Reg) : EncodedLength.Statement (.cp d r) := by
  simp only [EncodedLength.Statement, Instr.length, encode, encodeFirst, isTwoWord_bits, wordRR5_bits]
  simp

theorem EncodedLength.cpc (d : Reg) (r : Reg) : EncodedLength.Statement (.cpc d r) := by
  simp only [EncodedLength.Statement, Instr.length, encode, encodeFirst, isTwoWord_bits, wordRR5_bits]
  simp

theorem EncodedLength.cpi (d : Reg) (k : Byte) : EncodedLength.Statement (.cpi d k) := by
  simp only [EncodedLength.Statement, Instr.length, encode, encodeFirst, isTwoWord_bits, wordIMM8_bits]
  simp

theorem EncodedLength.sbrc (r : Reg) (b : BitVec 3) : EncodedLength.Statement (.sbrc r b) := by
  simp only [EncodedLength.Statement, Instr.length, encode, encodeFirst, isTwoWord_bits, wordRBIT_bits]
  simp

theorem EncodedLength.sbrs (r : Reg) (b : BitVec 3) : EncodedLength.Statement (.sbrs r b) := by
  simp only [EncodedLength.Statement, Instr.length, encode, encodeFirst, isTwoWord_bits, wordRBIT_bits]
  simp

theorem EncodedLength.sbic (a : BitVec 5) (b : BitVec 3) : EncodedLength.Statement (.sbic a b) := by
  simp only [EncodedLength.Statement, Instr.length, encode, encodeFirst, isTwoWord_bits, wordIOBIT_bits]
  simp

theorem EncodedLength.sbis (a : BitVec 5) (b : BitVec 3) : EncodedLength.Statement (.sbis a b) := by
  simp only [EncodedLength.Statement, Instr.length, encode, encodeFirst, isTwoWord_bits, wordIOBIT_bits]
  simp

theorem EncodedLength.brbs (n : BitVec 3) (k : BitVec 7) : EncodedLength.Statement (.brbs n k) := by
  simp only [EncodedLength.Statement, Instr.length, encode, encodeFirst, isTwoWord_bits, wordBR_bits]
  simp

theorem EncodedLength.brbc (n : BitVec 3) (k : BitVec 7) : EncodedLength.Statement (.brbc n k) := by
  simp only [EncodedLength.Statement, Instr.length, encode, encodeFirst, isTwoWord_bits, wordBR_bits]
  simp

theorem EncodedLength.breq (k : BitVec 7) : EncodedLength.Statement (.breq k) := by
  simp only [EncodedLength.Statement, Instr.length, encode, encodeFirst, isTwoWord_bits, wordBR_bits]
  simp

theorem EncodedLength.brne (k : BitVec 7) : EncodedLength.Statement (.brne k) := by
  simp only [EncodedLength.Statement, Instr.length, encode, encodeFirst, isTwoWord_bits, wordBR_bits]
  simp

theorem EncodedLength.brcs (k : BitVec 7) : EncodedLength.Statement (.brcs k) := by
  simp only [EncodedLength.Statement, Instr.length, encode, encodeFirst, isTwoWord_bits, wordBR_bits]
  simp

theorem EncodedLength.brcc (k : BitVec 7) : EncodedLength.Statement (.brcc k) := by
  simp only [EncodedLength.Statement, Instr.length, encode, encodeFirst, isTwoWord_bits, wordBR_bits]
  simp

theorem EncodedLength.brsh (k : BitVec 7) : EncodedLength.Statement (.brsh k) := by
  simp only [EncodedLength.Statement, Instr.length, encode, encodeFirst, isTwoWord_bits, wordBR_bits]
  simp

theorem EncodedLength.brlo (k : BitVec 7) : EncodedLength.Statement (.brlo k) := by
  simp only [EncodedLength.Statement, Instr.length, encode, encodeFirst, isTwoWord_bits, wordBR_bits]
  simp

theorem EncodedLength.brmi (k : BitVec 7) : EncodedLength.Statement (.brmi k) := by
  simp only [EncodedLength.Statement, Instr.length, encode, encodeFirst, isTwoWord_bits, wordBR_bits]
  simp

theorem EncodedLength.brpl (k : BitVec 7) : EncodedLength.Statement (.brpl k) := by
  simp only [EncodedLength.Statement, Instr.length, encode, encodeFirst, isTwoWord_bits, wordBR_bits]
  simp

theorem EncodedLength.brge (k : BitVec 7) : EncodedLength.Statement (.brge k) := by
  simp only [EncodedLength.Statement, Instr.length, encode, encodeFirst, isTwoWord_bits, wordBR_bits]
  simp

theorem EncodedLength.brlt (k : BitVec 7) : EncodedLength.Statement (.brlt k) := by
  simp only [EncodedLength.Statement, Instr.length, encode, encodeFirst, isTwoWord_bits, wordBR_bits]
  simp

theorem EncodedLength.brhs (k : BitVec 7) : EncodedLength.Statement (.brhs k) := by
  simp only [EncodedLength.Statement, Instr.length, encode, encodeFirst, isTwoWord_bits, wordBR_bits]
  simp

theorem EncodedLength.brhc (k : BitVec 7) : EncodedLength.Statement (.brhc k) := by
  simp only [EncodedLength.Statement, Instr.length, encode, encodeFirst, isTwoWord_bits, wordBR_bits]
  simp

theorem EncodedLength.brts (k : BitVec 7) : EncodedLength.Statement (.brts k) := by
  simp only [EncodedLength.Statement, Instr.length, encode, encodeFirst, isTwoWord_bits, wordBR_bits]
  simp

theorem EncodedLength.brtc (k : BitVec 7) : EncodedLength.Statement (.brtc k) := by
  simp only [EncodedLength.Statement, Instr.length, encode, encodeFirst, isTwoWord_bits, wordBR_bits]
  simp

theorem EncodedLength.brvs (k : BitVec 7) : EncodedLength.Statement (.brvs k) := by
  simp only [EncodedLength.Statement, Instr.length, encode, encodeFirst, isTwoWord_bits, wordBR_bits]
  simp

theorem EncodedLength.brvc (k : BitVec 7) : EncodedLength.Statement (.brvc k) := by
  simp only [EncodedLength.Statement, Instr.length, encode, encodeFirst, isTwoWord_bits, wordBR_bits]
  simp

theorem EncodedLength.brie (k : BitVec 7) : EncodedLength.Statement (.brie k) := by
  simp only [EncodedLength.Statement, Instr.length, encode, encodeFirst, isTwoWord_bits, wordBR_bits]
  simp

theorem EncodedLength.brid (k : BitVec 7) : EncodedLength.Statement (.brid k) := by
  simp only [EncodedLength.Statement, Instr.length, encode, encodeFirst, isTwoWord_bits, wordBR_bits]
  simp

theorem EncodedLength.sbi (a : BitVec 5) (b : BitVec 3) : EncodedLength.Statement (.sbi a b) := by
  simp only [EncodedLength.Statement, Instr.length, encode, encodeFirst, isTwoWord_bits, wordIOBIT_bits]
  simp

theorem EncodedLength.cbi (a : BitVec 5) (b : BitVec 3) : EncodedLength.Statement (.cbi a b) := by
  simp only [EncodedLength.Statement, Instr.length, encode, encodeFirst, isTwoWord_bits, wordIOBIT_bits]
  simp

theorem EncodedLength.lsl (d : Reg) : EncodedLength.Statement (.lsl d) := by
  simp only [EncodedLength.Statement, Instr.length, encode, encodeFirst, isTwoWord_bits, wordRR5_bits]
  simp

theorem EncodedLength.lsr (d : Reg) : EncodedLength.Statement (.lsr d) := by
  simp only [EncodedLength.Statement, Instr.length, encode, encodeFirst, isTwoWord_bits, wordR1_bits]
  simp

theorem EncodedLength.rol (d : Reg) : EncodedLength.Statement (.rol d) := by
  simp only [EncodedLength.Statement, Instr.length, encode, encodeFirst, isTwoWord_bits, wordRR5_bits]
  simp

theorem EncodedLength.ror (d : Reg) : EncodedLength.Statement (.ror d) := by
  simp only [EncodedLength.Statement, Instr.length, encode, encodeFirst, isTwoWord_bits, wordR1_bits]
  simp

theorem EncodedLength.asr (d : Reg) : EncodedLength.Statement (.asr d) := by
  simp only [EncodedLength.Statement, Instr.length, encode, encodeFirst, isTwoWord_bits, wordR1_bits]
  simp

theorem EncodedLength.swap (d : Reg) : EncodedLength.Statement (.swap d) := by
  simp only [EncodedLength.Statement, Instr.length, encode, encodeFirst, isTwoWord_bits, wordR1_bits]
  simp

theorem EncodedLength.bset (n : BitVec 3) : EncodedLength.Statement (.bset n) := by
  simp only [EncodedLength.Statement, Instr.length, encode, encodeFirst, isTwoWord_bits, wordSREGOP_bits]
  simp

theorem EncodedLength.bclr (n : BitVec 3) : EncodedLength.Statement (.bclr n) := by
  simp only [EncodedLength.Statement, Instr.length, encode, encodeFirst, isTwoWord_bits, wordSREGOP_bits]
  simp

theorem EncodedLength.bst (r : Reg) (b : BitVec 3) : EncodedLength.Statement (.bst r b) := by
  simp only [EncodedLength.Statement, Instr.length, encode, encodeFirst, isTwoWord_bits, wordRBIT_bits]
  simp

theorem EncodedLength.bld (d : Reg) (b : BitVec 3) : EncodedLength.Statement (.bld d b) := by
  simp only [EncodedLength.Statement, Instr.length, encode, encodeFirst, isTwoWord_bits, wordRBIT_bits]
  simp

theorem EncodedLength.sec : EncodedLength.Statement (.sec) := by
  unfold EncodedLength.Statement; decide

theorem EncodedLength.clc : EncodedLength.Statement (.clc) := by
  unfold EncodedLength.Statement; decide

theorem EncodedLength.sez : EncodedLength.Statement (.sez) := by
  unfold EncodedLength.Statement; decide

theorem EncodedLength.clz : EncodedLength.Statement (.clz) := by
  unfold EncodedLength.Statement; decide

theorem EncodedLength.sen : EncodedLength.Statement (.sen) := by
  unfold EncodedLength.Statement; decide

theorem EncodedLength.cln : EncodedLength.Statement (.cln) := by
  unfold EncodedLength.Statement; decide

theorem EncodedLength.sev : EncodedLength.Statement (.sev) := by
  unfold EncodedLength.Statement; decide

theorem EncodedLength.clv : EncodedLength.Statement (.clv) := by
  unfold EncodedLength.Statement; decide

theorem EncodedLength.ses : EncodedLength.Statement (.ses) := by
  unfold EncodedLength.Statement; decide

theorem EncodedLength.cls : EncodedLength.Statement (.cls) := by
  unfold EncodedLength.Statement; decide

theorem EncodedLength.seh : EncodedLength.Statement (.seh) := by
  unfold EncodedLength.Statement; decide

theorem EncodedLength.clh : EncodedLength.Statement (.clh) := by
  unfold EncodedLength.Statement; decide

theorem EncodedLength.set : EncodedLength.Statement (.set) := by
  unfold EncodedLength.Statement; decide

theorem EncodedLength.clt : EncodedLength.Statement (.clt) := by
  unfold EncodedLength.Statement; decide

theorem EncodedLength.sei : EncodedLength.Statement (.sei) := by
  unfold EncodedLength.Statement; decide

theorem EncodedLength.cli : EncodedLength.Statement (.cli) := by
  unfold EncodedLength.Statement; decide

end Sys2Proof.Laws
end

