-- ==== Sys2Proof/Laws/Stack.lean ====
section
/-! SUPPORT. What PushPC, PopPC, interrupt entry and the return from it do when the stack lies in RAM, each said once. -/

namespace Sys2Proof.Machine

theorem pcBytes_cases (c : Config) :
    (c.pcWidth = .w16 ∧ c.pcBytes = 2 ∧ c.pcBits = 16) ∨ (c.pcWidth = .w22 ∧ c.pcBytes = 3 ∧ c.pcBits = 22) := by
  unfold Config.pcBytes Config.pcBits
  cases c.pcWidth <;> simp

/-- With room in RAM PushPC writes the return address and SP, and nothing else (R69). -/
theorem pushPc_of_room {s : State} (ret : PcAddr) (h : s.pushRoom) :
    ∃ t, pushPc s ret = .next t ∧ pushesReturn s t ret ∧ t = { s with sp := t.sp, ram := t.ram } := by
  have b0 : ret.extractLsb' 0 8 = BitVec.ofNat 8 ret.toNat := by
    apply BitVec.eq_of_toNat_eq
    simp only [BitVec.extractLsb'_toNat, BitVec.toNat_ofNat, Nat.shiftRight_zero]
  have b1 : ret.extractLsb' 8 8 = BitVec.ofNat 8 (ret.toNat / 256) := by
    apply BitVec.eq_of_toNat_eq
    simp only [BitVec.extractLsb'_toNat, BitVec.toNat_ofNat, Nat.shiftRight_eq_div_pow]
  have b2 : (ret.extractLsb' 16 6).setWidth 8 = BitVec.ofNat 8 (ret.toNat / 65536) := by
    apply BitVec.eq_of_toNat_eq
    have := ret.isLt
    simp only [BitVec.extractLsb'_toNat, BitVec.toNat_setWidth, BitVec.toNat_ofNat, Nat.shiftRight_eq_div_pow]
    omega
  have d1 : s.sp ≠ s.sp - 1#16 := by bv_omega
  have d2 : s.sp ≠ s.sp - 2#16 := by bv_omega
  have d3 : s.sp - 1#16 ≠ s.sp - 2#16 := by bv_omega
  rcases pcBytes_cases s.cfg with ⟨hw, hb, -⟩ | ⟨hw, hb, -⟩
  · have r0 : placeOf s.cfg s.sp = .ram := by simpa using h 0 (by omega)
    have r1 : placeOf s.cfg (s.sp - 1#16) = .ram := h 1 (by omega)
    have p0 := push8_ram (s := s) (ret.extractLsb' 0 8) r0
    have p1 := push8_ram (s := (s.setRam s.sp (ret.extractLsb' 0 8)).setSp (s.sp - 1#16)) (ret.extractLsb' 8 8) r1
    have e : pushPc s ret = .next ((((s.setRam s.sp (ret.extractLsb' 0 8)).setSp (s.sp - 1#16)).setRam
        (s.sp - 1#16) (ret.extractLsb' 8 8)).setSp (s.sp - 1#16 - 1#16)) := by
      simp only [pushPc, p0, p1, andThen_next, hw]
      rfl
    refine ⟨_, e, ⟨?_, ?_, ?_, by omega, ?_⟩, rfl⟩
    · rw [hb]
      simp
      bv_omega
    · rw [← b0]
      simp [State.ramByte_setRam, d1]
    · rw [← b1]
      simp [State.ramByte_setRam]
    · intro b hn
      have n0 := hn 0 (by omega)
      have n1 := hn 1 (by omega)
      simp_all [State.ramByte_setRam]
  · have r0 : placeOf s.cfg s.sp = .ram := by simpa using h 0 (by omega)
    have r1 : placeOf s.cfg (s.sp - 1#16) = .ram := h 1 (by omega)
    have r2 : placeOf s.cfg (s.sp - 2#16) = .ram := h 2 (by omega)
    have e2 : s.sp - 1#16 - 1#16 = s.sp - 2#16 := by bv_omega
    have p0 := push8_ram (s := s) (ret.extractLsb' 0 8) r0
    have p1 := push8_ram (s := (s.setRam s.sp (ret.extractLsb' 0 8)).setSp (s.sp - 1#16)) (ret.extractLsb' 8 8) r1
    have p2 := push8_ram
      (s := (((s.setRam s.sp (ret.extractLsb' 0 8)).setSp (s.sp - 1#16)).setRam (s.sp - 1#16) (ret.extractLsb' 8 8)).setSp
        (s.sp - 1#16 - 1#16))
      ((ret.extractLsb' 16 6).setWidth 8) (by simp only [State.setSp_sp, e2]; exact r2)
    have e : pushPc s ret = .next ((((((s.setRam s.sp (ret.extractLsb' 0 8)).setSp (s.sp - 1#16)).setRam
        (s.sp - 1#16) (ret.extractLsb' 8 8)).setSp (s.sp - 2#16)).setRam (s.sp - 2#16)
        ((ret.extractLsb' 16 6).setWidth 8)).setSp (s.sp - 2#16 - 1#16)) := by
      simp only [pushPc, p0, p1, andThen_next, hw]
      rw [← e2]
      exact p2
    refine ⟨_, e, ⟨?_, ?_, ?_, fun _ => ?_, ?_⟩, rfl⟩
    · rw [hb]
      simp
      bv_omega
    · rw [← b0]
      simp [State.ramByte_setRam, d1, d2]
    · rw [← b1]
      simp [State.ramByte_setRam, d3]
    · rw [← b2]
      simp [State.ramByte_setRam]
    · intro b hn
      have n0 := hn 0 (by omega)
      have n1 := hn 1 (by omega)
      have n2 := hn 2 (by omega)
      simp_all [State.ramByte_setRam]

/-- PopPC of a return address in RAM: that address and SP, and nothing else (R69). -/
theorem popPc_of_shows {s : State} {h m l : Byte} (hs : stackShows s h m l) :
    popPc s = .next (wrapPc s.cfg (h.extractLsb' 0 6 ++ m ++ l), s.setSp (s.sp + BitVec.ofNat 16 s.cfg.pcBytes)) := by
  obtain ⟨h3, h2, pm, vm, pl, vl⟩ := hs
  rcases pcBytes_cases s.cfg with ⟨hw, hb, -⟩ | ⟨hw, hb, -⟩
  · simp only [hb] at *
    obtain rfl := h2 trivial
    have e1 : s.sp + BitVec.ofNat 16 2 - 1#16 = s.sp + 1#16 := by bv_omega
    have e2 : s.sp + BitVec.ofNat 16 2 = s.sp + 1#16 + 1#16 := by bv_omega
    rw [e1] at pm vm
    rw [e2] at pl vl
    have p1 := pop8_ram pm vm
    have p2 := pop8_ram (s := s.setSp (s.sp + 1#16)) pl vl
    simp only [popPc, popTop, hw, p1, p2, andThen_next]
    rw [e2]
    rfl
  · simp only [hb] at *
    obtain ⟨ph, vh⟩ := h3 trivial
    have e1 : s.sp + BitVec.ofNat 16 3 - 1#16 = s.sp + 1#16 + 1#16 := by bv_omega
    have e2 : s.sp + BitVec.ofNat 16 3 = s.sp + 1#16 + 1#16 + 1#16 := by bv_omega
    rw [e1] at pm vm
    rw [e2] at pl vl
    have p0 := pop8_ram ph vh
    have p1 := pop8_ram (s := s.setSp (s.sp + 1#16)) pm vm
    have p2 := pop8_ram (s := (s.setSp (s.sp + 1#16)).setSp (s.sp + 1#16 + 1#16)) pl vl
    simp only [popPc, popTop, hw, p0, p1, andThen_next]
    rw [e2]
    simp only [State.setSp_sp, p2, andThen_next]
    rfl

/-- The number PopPC makes of the three bytes (R69). -/
theorem popped_toNat (c : Config) (h m l : Byte) :
    (wrapPc c (h.extractLsb' 0 6 ++ m ++ l)).toNat = (h.toNat * 65536 + m.toNat * 256 + l.toNat) % 2 ^ c.pcBits := by
  have e : (h.extractLsb' 0 6 ++ m ++ l).toNat = h.toNat % 64 * 65536 + m.toNat * 256 + l.toNat := by
    have hm := m.isLt
    have hl := l.isLt
    simp only [BitVec.toNat_append, BitVec.extractLsb'_toNat, Nat.shiftRight_zero]
    rw [← Nat.shiftLeft_add_eq_or_of_lt hm, ← Nat.shiftLeft_add_eq_or_of_lt hl, Nat.shiftLeft_eq, Nat.shiftLeft_eq]
    omega
  rw [wrapPc_toNat, e]
  unfold Config.pcBits
  cases c.pcWidth <;> simp only [] <;> omega

/-- Interrupt entry is the push of pc and then the entry's own changes (R316). -/
theorem takeInterrupt_eq_next {src : IrqSource} {s t : State} :
    takeInterrupt src s = .next t ↔
      ∃ u, pushPc s s.pc = .next u ∧
        t = (({ u with sreg := u.sreg &&& 0x7F#8, sleeping := false } : State).setPc src.vector).record
          (.interruptTaken src.name) := by
  unfold takeInterrupt
  rw [andThen_eq_next]
  simp only [Host.Outcome.next.injEq, eq_comm]

/-- The return from interrupt is PopPC and then the set of I (R319). -/
theorem returnFromInterrupt_eq_next {s t : State} :
    returnFromInterrupt s = .next t ↔
      ∃ p, popPc s = .next p ∧ t = (p.2.setPc p.1).writeSreg (p.2.sreg ||| 0x80#8) := by
  unfold returnFromInterrupt
  rw [andThen_eq_next]
  simp only [Host.Outcome.next.injEq, eq_comm]

end Sys2Proof.Machine
end

