-- ==== Sys2Proof/Laws/Stops.lean ====
section
/-! SUPPORT. When the shared operations over data memory, the stack and program memory stop, each said once and exactly, by the
addresses they access. -/

namespace Sys2Proof.Machine

/-! ### One data byte -/

/-- An address shows no byte exactly where its read stops (R47, R64, R75). -/
theorem State.seen_eq_none (s : State) (a : Word) :
    s.seen a = none ↔ placeOf s.cfg a = .outside ∨ placeOf s.cfg a = .noWindow ∨ s.unreadable a := by
  unfold State.seen State.unreadable
  cases placeOf s.cfg a <;> simp
  cases s.ramByte a <;> cases s.cfg.unwrittenRead <;> simp

/-- Above `DATA_TOP`, by number (R75). -/
theorem placeOf_eq_outside_toNat (c : Config) (a : Word) : placeOf c a = .outside ↔ c.dataTop.toNat < a.toNat :=
  placeOf_eq_outside c a

/-- In the absent register window (R64). -/
theorem placeOf_eq_noWindow_iff (s : State) (a : Word) : placeOf s.cfg a = .noWindow ↔ s.inAbsentWindow a := by
  rw [placeOf_eq_noWindow, State.inAbsentWindow, BitVec.lt_def, BitVec.lt_def, Nat.not_lt]
  rfl

/-! ### The stack -/

theorem push8_eq_fault (s : State) (v : Byte) (f : Fault) :
    push8 s v = .fault f ↔ f = .dataOutside s.sp ∧ placeOf s.cfg s.sp = .outside := by
  simp [push8, andThen_eq_fault, memWrite_eq_fault]

theorem push8_eq_refused (s : State) (v : Byte) (r : Refusal) :
    push8 s v = .refused r ↔ r = .dataBelow0x20 ∧ placeOf s.cfg s.sp = .noWindow := by
  simp [push8, andThen_eq_refused, memWrite_eq_refused]

/-- A push that ends was at a writable address, and keeps the parameters. -/
theorem push8_writable {s t : State} {v : Byte} (h : push8 s v = .next t) : s.writable s.sp ∧ t.cfg = s.cfg := by
  obtain ⟨u, hu, ht⟩ := andThen_eq_next.1 h
  cases ht
  exact ⟨(memWrite_eq_next hu).1, (memWrite_eq_next hu).2.1.1⟩

/-- PushPC faults exactly at the first of its addresses that is outside (R69, R75). -/
theorem pushPc_eq_fault (s : State) (ret : PcAddr) (f : Fault) :
    pushPc s ret = .fault f ↔ ∃ a ∈ pushAddresses s ret, f = .dataOutside a ∧ placeOf s.cfg a = .outside := by
  unfold pushPc pushAddresses
  cases h1 : push8 s (ret.extractLsb' 0 8) with
  | fault e => simp [(push8_eq_fault _ _ _).1 h1, @eq_comm _ f]
  | refused e => simp [((push8_eq_refused _ _ _).1 h1).2]
  | next s1 =>
    obtain ⟨w1, c1⟩ := push8_writable h1
    cases h2 : push8 s1 (ret.extractLsb' 8 8) with
    | fault e =>
      obtain ⟨rfl, p2⟩ := (push8_eq_fault _ _ _).1 h2
      cases s.cfg.pcWidth <;> simp [w1.1, c1 ▸ p2, h2, @eq_comm _ f]
    | refused e =>
      obtain ⟨rfl, p2⟩ := (push8_eq_refused _ _ _).1 h2
      cases s.cfg.pcWidth <;> simp [w1.1, c1 ▸ p2, h2]
    | next s2 =>
      obtain ⟨w2, c2⟩ := push8_writable h2
      have w2' : placeOf s.cfg s1.sp ≠ .outside := c1 ▸ w2.1
      cases s.cfg.pcWidth <;> simp [w1.1, w2', h2, push8_eq_fault, c2, c1]

/-- PushPC is refused exactly at the first of its addresses in the absent window (R64, R69). -/
theorem pushPc_eq_refused (s : State) (ret : PcAddr) (r : Refusal) :
    pushPc s ret = .refused r ↔ r = .dataBelow0x20 ∧ ∃ a ∈ pushAddresses s ret, placeOf s.cfg a = .noWindow := by
  unfold pushPc pushAddresses
  cases h1 : push8 s (ret.extractLsb' 0 8) with
  | fault e => simp [((push8_eq_fault _ _ _).1 h1).2]
  | refused e => simp [(push8_eq_refused _ _ _).1 h1, @eq_comm _ r]
  | next s1 =>
    obtain ⟨w1, c1⟩ := push8_writable h1
    cases h2 : push8 s1 (ret.extractLsb' 8 8) with
    | fault e =>
      obtain ⟨rfl, p2⟩ := (push8_eq_fault _ _ _).1 h2
      cases s.cfg.pcWidth <;> simp [w1.2, c1 ▸ p2, h2]
    | refused e =>
      obtain ⟨rfl, p2⟩ := (push8_eq_refused _ _ _).1 h2
      cases s.cfg.pcWidth <;> simp [w1.2, c1 ▸ p2, h2, @eq_comm _ r]
    | next s2 =>
      obtain ⟨w2, c2⟩ := push8_writable h2
      have w2' : placeOf s.cfg s1.sp ≠ .noWindow := c1 ▸ w2.2
      cases s.cfg.pcWidth <;> simp [w1.2, w2', h2, push8_eq_refused, c2, c1]

/-- What stops the read of a data address: a fault (R47, R75). -/
def readFaults (s : State) (a : Word) (f : Fault) : Prop :=
  (f = .dataOutside a ∧ placeOf s.cfg a = .outside) ∨ (f = .unwrittenRead a ∧ s.unreadable a)

theorem memRead_eq_readFaults (s : State) (a : Word) (f : Fault) : memRead s a = .fault f ↔ readFaults s a f := by
  rw [memRead_eq_fault, readFaults, State.unreadable]
  tauto

/-- An address that shows a byte stops no read. -/
theorem readFaults_of_seen {s : State} {a : Word} {f : Fault} (h : s.seen a ≠ none) : ¬ readFaults s a f := by
  rw [Ne, State.seen_eq_none] at h
  rintro (⟨-, h1⟩ | ⟨-, h1⟩) <;> simp_all

/-- A pop stops as the read at SP plus one does (R13). -/
theorem pop8_eq_fault (s : State) (f : Fault) : pop8 s = .fault f ↔ readFaults s (s.sp + 1#16) f :=
  memRead_eq_readFaults _ _ _

theorem pop8_eq_refused (s : State) (r : Refusal) :
    pop8 s = .refused r ↔ r = .dataBelow0x20 ∧ placeOf s.cfg (s.sp + 1#16) = .noWindow := memRead_eq_refused _ _ _

/-- A pop that ends shows its byte, and leaves SP plus one over the same memory. -/
theorem pop8_eq_next {s : State} {p : Byte × State} (h : pop8 s = .next p) :
    s.seen (s.sp + 1#16) ≠ none ∧ p.2 = (s.setSp (s.sp + 1#16)).afterRead (s.sp + 1#16) := by
  obtain ⟨h1, h2⟩ := (memRead_eq_next _ _ _).1 h
  refine ⟨fun h3 => ?_, h2⟩
  rw [(State.seen_eq_none (s.setSp (s.sp + 1#16)) _).2 ((State.seen_eq_none s _).1 h3)] at h1
  cases h1

/-- Reads leave what later reads show or stop at as it was. -/
theorem seen_none_afterRead (s : State) (v : Word) (a b : Word) :
    ((s.setSp v).afterRead b).seen a = none ↔ s.seen a = none :=
  (State.seen_eq_none _ _).trans (State.seen_eq_none s a).symm

/-- `u` is `s` after reads that left SP at `sp`: it stops reads where `s` does. -/
structure AfterPops (s u : State) (sp : Word) : Prop where
  sp_eq : u.sp = sp
  cfg_eq : u.cfg = s.cfg
  ram_eq : u.ram = s.ram

theorem AfterPops.refl (s : State) : AfterPops s s s.sp := ⟨rfl, rfl, rfl⟩

theorem AfterPops.ramByte {s u : State} {sp : Word} (h : AfterPops s u sp) (a : Word) : u.ramByte a = s.ramByte a := by
  unfold State.ramByte
  rw [h.ram_eq]

theorem AfterPops.fault {s u : State} {sp : Word} (h : AfterPops s u sp) (f : Fault) :
    pop8 u = .fault f ↔ readFaults s (sp + 1#16) f := by
  rw [pop8_eq_fault, h.sp_eq, readFaults, readFaults, State.unreadable, State.unreadable, h.cfg_eq, h.ramByte]

theorem AfterPops.refused {s u : State} {sp : Word} (h : AfterPops s u sp) (r : Refusal) :
    pop8 u = .refused r ↔ r = .dataBelow0x20 ∧ placeOf s.cfg (sp + 1#16) = .noWindow := by
  rw [pop8_eq_refused, h.sp_eq, h.cfg_eq]

theorem AfterPops.next {s u : State} {sp : Word} {p : Byte × State} (h : AfterPops s u sp) (hp : pop8 u = .next p) :
    AfterPops s p.2 (sp + 1#16) ∧ s.seen (sp + 1#16) ≠ none := by
  obtain ⟨h1, h2⟩ := pop8_eq_next hp
  rw [h2]
  refine ⟨⟨by rw [State.afterRead_sp, State.setSp_sp, h.sp_eq], h.cfg_eq, h.ram_eq⟩, fun h3 => h1 ?_⟩
  rw [State.seen_eq_none] at h3 ⊢
  rwa [h.sp_eq, State.unreadable, h.cfg_eq, h.ramByte]

/-- A pop ends exactly where its address shows a byte. -/
theorem AfterPops.ends {s u : State} {sp : Word} (h : AfterPops s u sp) :
    (∃ p, pop8 u = .next p) ↔ s.seen (sp + 1#16) ≠ none := by
  refine ⟨fun ⟨p, hp⟩ => (h.next hp).2, fun hs => ?_⟩
  cases hp : pop8 u with
  | next p => exact ⟨p, rfl⟩
  | fault f => exact absurd ((h.fault f).1 hp) (readFaults_of_seen hs)
  | refused r => exact absurd ((State.seen_eq_none _ _).2 (.inr (.inl ((h.refused r).1 hp).2))) hs

/-- One more pop after pops that ended faults when its own read does, or when what comes after it does. -/
theorem AfterPops.bind_fault {α : Type} {s u : State} {sp : Word} (h : AfterPops s u sp) (g : Byte × State → Result α)
    (f : Fault) (P : Prop) (hg : ∀ p, AfterPops s p.2 (sp + 1#16) → (g p = .fault f ↔ P)) :
    andThen (pop8 u) g = .fault f ↔ readFaults s (sp + 1#16) f ∨ s.seen (sp + 1#16) ≠ none ∧ P := by
  rw [andThen_eq_fault, h.fault, ← h.ends]
  refine or_congr_right ⟨fun ⟨p, hp, hf⟩ => ⟨⟨p, hp⟩, (hg p (h.next hp).1).1 hf⟩, fun ⟨⟨p, hp⟩, hP⟩ => ?_⟩
  exact ⟨p, hp, (hg p (h.next hp).1).2 hP⟩

/-- The same of refusals. -/
theorem AfterPops.bind_refused {α : Type} {s u : State} {sp : Word} (h : AfterPops s u sp) (g : Byte × State → Result α)
    (r : Refusal) (P : Prop) (hg : ∀ p, AfterPops s p.2 (sp + 1#16) → (g p = .refused r ↔ P)) :
    andThen (pop8 u) g = .refused r ↔
      (r = .dataBelow0x20 ∧ placeOf s.cfg (sp + 1#16) = .noWindow) ∨ s.seen (sp + 1#16) ≠ none ∧ P := by
  rw [andThen_eq_refused, h.refused, ← h.ends]
  refine or_congr_right ⟨fun ⟨p, hp, hf⟩ => ⟨⟨p, hp⟩, (hg p (h.next hp).1).1 hf⟩, fun ⟨⟨p, hp⟩, hP⟩ => ?_⟩
  exact ⟨p, hp, (hg p (h.next hp).1).2 hP⟩

/-- PopPC faults exactly at the first of its addresses whose read does (R69). -/
theorem popPc_eq_fault (s : State) (f : Fault) : popPc s = .fault f ↔ ∃ a ∈ popAddresses s, readFaults s a f := by
  have e2 : s.sp + 1#16 + 1#16 = s.sp + 2#16 := by bv_omega
  have e3 : s.sp + 2#16 + 1#16 = s.sp + 3#16 := by bv_omega
  have k1 : s.seen (s.sp + 1#16) ≠ none → ¬ readFaults s (s.sp + 1#16) f := readFaults_of_seen
  have k2 : s.seen (s.sp + 2#16) ≠ none → ¬ readFaults s (s.sp + 2#16) f := readFaults_of_seen
  unfold popPc popTop popAddresses
  cases s.cfg.pcWidth
  · rw [andThen_next, (AfterPops.refl s).bind_fault _ f (readFaults s (s.sp + 2#16) f) fun m hm => by
      rw [hm.bind_fault _ f False fun _ _ => by simp, e2]; simp]
    by_cases h1 : s.seen (s.sp + 1#16) = none <;> by_cases h2 : s.seen (s.sp + 2#16) = none <;> simp_all
  · rw [(AfterPops.refl s).bind_fault _ f
      (readFaults s (s.sp + 2#16) f ∨ s.seen (s.sp + 2#16) ≠ none ∧ readFaults s (s.sp + 3#16) f) fun m hm => by
        rw [hm.bind_fault _ f (readFaults s (s.sp + 3#16) f) fun l hl => by
          rw [hl.bind_fault _ f False fun _ _ => by simp, e2, e3]; simp, e2]]
    by_cases h1 : s.seen (s.sp + 1#16) = none <;> by_cases h2 : s.seen (s.sp + 2#16) = none <;> simp_all

/-- PopPC is refused exactly at the first of its addresses in the absent window (R64, R69). -/
theorem popPc_eq_refused (s : State) (r : Refusal) :
    popPc s = .refused r ↔ ∃ a ∈ popAddresses s, r = .dataBelow0x20 ∧ placeOf s.cfg a = .noWindow := by
  have e2 : s.sp + 1#16 + 1#16 = s.sp + 2#16 := by bv_omega
  have e3 : s.sp + 2#16 + 1#16 = s.sp + 3#16 := by bv_omega
  have k1 : s.seen (s.sp + 1#16) ≠ none → placeOf s.cfg (s.sp + 1#16) ≠ .noWindow :=
    fun h e => h ((State.seen_eq_none _ _).2 (.inr (.inl e)))
  have k2 : s.seen (s.sp + 2#16) ≠ none → placeOf s.cfg (s.sp + 2#16) ≠ .noWindow :=
    fun h e => h ((State.seen_eq_none _ _).2 (.inr (.inl e)))
  unfold popPc popTop popAddresses
  cases s.cfg.pcWidth
  · rw [andThen_next, (AfterPops.refl s).bind_refused _ r
      (r = .dataBelow0x20 ∧ placeOf s.cfg (s.sp + 2#16) = .noWindow) fun m hm => by
        rw [hm.bind_refused _ r False fun _ _ => by simp, e2]; simp]
    by_cases h1 : s.seen (s.sp + 1#16) = none <;> by_cases h2 : s.seen (s.sp + 2#16) = none <;> simp_all
  · rw [(AfterPops.refl s).bind_refused _ r
      ((r = .dataBelow0x20 ∧ placeOf s.cfg (s.sp + 2#16) = .noWindow) ∨ s.seen (s.sp + 2#16) ≠ none ∧
        (r = .dataBelow0x20 ∧ placeOf s.cfg (s.sp + 3#16) = .noWindow)) fun m hm => by
        rw [hm.bind_refused _ r (r = .dataBelow0x20 ∧ placeOf s.cfg (s.sp + 3#16) = .noWindow) fun l hl => by
          rw [hl.bind_refused _ r False fun _ _ => by simp, e2, e3]; simp, e2]]
    by_cases h1 : s.seen (s.sp + 1#16) = none <;> by_cases h2 : s.seen (s.sp + 2#16) = none <;> simp_all

/-! ### Program memory and skips -/

/-- The read of a program word faults exactly at or above `FLASH_WORDS`, and is never refused (R61, R75). -/
theorem progWord_eq_fault (s : State) (wa : Nat) (f : Fault) :
    progWord s wa = .fault f ↔ f = .programOutside wa ∧ s.cfg.programWords ≤ wa := by
  unfold progWord
  split <;> simp_all [@eq_comm _ f]

theorem progWord_ne_refused (s : State) (wa : Nat) (r : Refusal) : progWord s wa ≠ .refused r := by
  unfold progWord
  split <;> simp

/-- The same of the read of a byte of program memory (R67). -/
theorem progByte_eq_fault (s : State) (ba : Nat) (f : Fault) :
    progByte s ba = .fault f ↔ f = .programOutside (ba / 2) ∧ s.cfg.programWords ≤ ba / 2 := by
  simp [progByte, andThen_eq_fault, progWord_eq_fault]

theorem progByte_ne_refused (s : State) (ba : Nat) (r : Refusal) : progByte s ba ≠ .refused r := by
  simp [progByte, andThen_eq_refused, progWord_ne_refused]

/-- A skip faults exactly when it is taken and the following word is outside (R221). -/
theorem skip_eq_fault (taken : Bool) (s : State) (f : Fault) :
    skip taken s = .fault f ↔ ∃ wa ∈ skipAddresses taken s, f = .programOutside wa ∧ s.cfg.programWords ≤ wa := by
  cases taken
  · simp [skip, skipAddresses]
  · simp [skip, skipAddresses, andThen_eq_fault, progWord_eq_fault, wrapPc_add s 1#22]

theorem skip_ne_refused (taken : Bool) (s : State) (r : Refusal) : skip taken s ≠ .refused r := by
  cases taken <;> simp [skip, andThen_eq_refused, progWord_ne_refused]

end Sys2Proof.Machine
end

