-- ==== Sys2Proof/Laws/Updates.lean ====
section
/-! SUPPORT. What an instruction's effect is made of: every next state of `exec` is reached from the state before by elementary
updates, stores only at the instruction's own store addresses. A fact that every elementary update keeps holds of every
instruction. -/

namespace Sys2Proof.Machine

/-- The instructions that set I without a store (R314). -/
def enablesI (i : Instr) : Bool :=
  match i with
  | .bset n => n == 7#3
  | .sei => true
  | .reti => true
  | _ => false

/-- One elementary update: `stores` lists the data addresses a store may go to, `enable` says that I may be set. -/
inductive Update (stores : List Word) (enable : Bool) : State → State → Prop
  | setReg (s : State) (r : Reg) (v : Byte) : Update stores enable s (s.setReg r v)
  | setPc (s : State) (v : PcAddr) : Update stores enable s (s.setPc v)
  | setSreg (s : State) (v : Byte) (h : v.getLsbD 7 = true → s.sreg.getLsbD 7 = true) :
      Update stores enable s (s.setSreg v)
  | enableI (s : State) (v : Byte) (h : enable = true) : Update stores enable s (s.writeSreg v)
  | setSp (s : State) (v : Word) : Update stores enable s (s.setSp v)
  | read (s : State) (a : Word) : Update stores enable s (s.afterRead a)
  | record (s : State) (e : Event) : Update stores enable s (s.record e)
  | sleep (s : State) : Update stores enable s { s with sleeping := true }
  | store (s t : State) (a : Word) (v : Byte) (h : a ∈ stores) (h1 : memWrite s a v = .next t) : Update stores enable s t

/-- Any number of elementary updates in sequence. -/
abbrev Updates (stores : List Word) (enable : Bool) : State → State → Prop :=
  Relation.ReflTransGen (Update stores enable)

variable {A : List Word} {e : Bool}

theorem Updates.refl (s : State) : Updates A e s s := Relation.ReflTransGen.refl

theorem Updates.setReg {s t : State} (h : Updates A e s t) (r : Reg) (v : Byte) : Updates A e s (t.setReg r v) :=
  h.tail (.setReg t r v)

theorem Updates.setPair {s t : State} (h : Updates A e s t) (r : Reg) (v : Word) : Updates A e s (t.setPair r v) :=
  (h.setReg r _).setReg (r + 1#5) _

theorem Updates.setPc {s t : State} (h : Updates A e s t) (v : PcAddr) : Updates A e s (t.setPc v) :=
  h.tail (.setPc t v)

theorem Updates.advance {s t : State} (h : Updates A e s t) (n : PcAddr) : Updates A e s (t.advance n) :=
  h.tail (.setPc t _)

theorem Updates.setSp {s t : State} (h : Updates A e s t) (v : Word) : Updates A e s (t.setSp v) :=
  h.tail (.setSp t v)

theorem Updates.afterRead {s t : State} (h : Updates A e s t) (a : Word) : Updates A e s (t.afterRead a) :=
  h.tail (.read t a)

theorem Updates.setHSVNZC {s t : State} (h : Updates A e s t) (f : FlagValues) : Updates A e s (t.setHSVNZC f) :=
  h.tail (.setSreg t _ (fun hv => by rw [packSreg_bit7] at hv; exact hv))

theorem Updates.setSVNZC {s t : State} (h : Updates A e s t) (f : FlagValues) : Updates A e s (t.setSVNZC f) :=
  h.tail (.setSreg t _ (fun hv => by rw [packSreg_bit7] at hv; exact hv))

theorem Updates.setSVNZ {s t : State} (h : Updates A e s t) (v n z : Bool) : Updates A e s (t.setSVNZ v n z) :=
  h.tail (.setSreg t _ (fun hv => by rw [packSreg_bit7] at hv; exact hv))

theorem Updates.setZC {s t : State} (h : Updates A e s t) (z c : Bool) : Updates A e s (t.setZC z c) :=
  h.tail (.setSreg t _ (fun hv => by rw [packSreg_bit7] at hv; exact hv))

/-! ### The shared operations -/

theorem Updates.memRead {s t : State} {a : Word} {p : Byte × State} (h : Updates A e s t)
    (hr : Machine.memRead t a = .next p) : Updates A e s p.2 := by
  rw [((memRead_eq_next t a p).1 hr).2]
  exact h.afterRead a

theorem Updates.memWrite {s t u : State} {a : Word} {v : Byte} (h : Updates A e s t) (ha : a ∈ A)
    (hw : Machine.memWrite t a v = .next u) : Updates A e s u := h.tail (.store t u a v ha hw)

theorem Updates.loadByte {s t u : State} {d : Reg} {a : Word} (h : Updates A e s t)
    (hl : Machine.loadByte d a t = .next u) : Updates A e s u := by
  obtain ⟨p, hp, hu⟩ := andThen_eq_next.1 hl
  cases hu
  exact (h.memRead hp).setReg d p.1

theorem Updates.push8 {s t u : State} {v : Byte} (h : Updates A e s t) (ha : t.sp ∈ A)
    (hp : Machine.push8 t v = .next u) : Updates A e s u := by
  obtain ⟨w, hw, hu⟩ := andThen_eq_next.1 hp
  cases hu
  exact (h.memWrite ha hw).setSp _

theorem Updates.pop8 {s t : State} {p : Byte × State} (h : Updates A e s t) (hp : Machine.pop8 t = .next p) :
    Updates A e s p.2 := (h.setSp _).memRead hp

theorem Updates.pushPc {s t u : State} {ret : PcAddr} (h : Updates A e s t) (ha : ∀ a ∈ pushAddresses t ret, a ∈ A)
    (hp : Machine.pushPc t ret = .next u) : Updates A e s u := by
  obtain ⟨s1, h1, hp⟩ := andThen_eq_next.1 hp
  obtain ⟨s2, h2, hp⟩ := andThen_eq_next.1 hp
  have m0 : t.sp ∈ A := ha _ (by simp [pushAddresses])
  have m1 : s1.sp ∈ A := ha _ (by simp [pushAddresses, h1])
  have q2 := (h.push8 m0 h1).push8 m1 h2
  cases hw : t.cfg.pcWidth
  · rw [hw] at hp
    cases hp
    exact q2
  · rw [hw] at hp
    have m2 : s2.sp ∈ A := ha _ (by simp [pushAddresses, h1, h2, hw])
    exact q2.push8 m2 hp

theorem Updates.popPc {s t : State} {p : PcAddr × State} (h : Updates A e s t) (hp : Machine.popPc t = .next p) :
    Updates A e s p.2 := by
  obtain ⟨a, ha, hp⟩ := andThen_eq_next.1 hp
  obtain ⟨b, hb, hp⟩ := andThen_eq_next.1 hp
  obtain ⟨c, hc, hp⟩ := andThen_eq_next.1 hp
  cases hp
  have h1 : Updates A e s a.2 := by
    unfold popTop at ha
    split at ha
    · cases ha
      exact h
    · exact h.pop8 ha
  exact (h1.pop8 hb).pop8 hc

theorem Updates.skip {s t u : State} {cond : Bool} (h : Updates A e s t) (hs : Machine.skip cond t = .next u) :
    Updates A e s u := by
  unfold Machine.skip at hs
  split at hs
  · obtain ⟨w, _, hu⟩ := andThen_eq_next.1 hs
    cases hu
    exact h.advance _
  · cases hs
    exact h.advance _

theorem Updates.checkPointer {s t u : State} {p : Pointer} {r : Reg} (h : Updates A e s t)
    (hc : Machine.checkPointer p r t = .next u) : Updates A e s u ∧ u = t := by
  unfold Machine.checkPointer at hc
  split at hc
  · cases hc
  · split at hc
    · cases hc
    · cases hc
      exact ⟨h, rfl⟩

/-! ### The instructions -/

theorem loadDisplaced_updates {p : Pointer} {d : Reg} {q : BitVec 6} {s t : State}
    (h : loadDisplaced p d q s = .next t) : Updates A e s t := by
  obtain ⟨s1, h1, h⟩ := andThen_eq_next.1 h
  obtain ⟨s2, h2, h⟩ := andThen_eq_next.1 h
  cases h
  exact (((Updates.refl s).checkPointer h1).1.loadByte h2).advance _

theorem loadIncrement_updates {p : Pointer} {d : Reg} {s t : State} (h : loadIncrement p d s = .next t) :
    Updates A e s t := by
  obtain ⟨s1, h1, h⟩ := andThen_eq_next.1 h
  obtain ⟨s2, h2, h⟩ := andThen_eq_next.1 h
  cases h
  exact ((((Updates.refl s).checkPointer h1).1.loadByte h2).setPair _ _).advance _

theorem loadDecrement_updates {p : Pointer} {d : Reg} {s t : State} (h : loadDecrement p d s = .next t) :
    Updates A e s t := by
  obtain ⟨s1, h1, h⟩ := andThen_eq_next.1 h
  obtain ⟨s2, h2, h⟩ := andThen_eq_next.1 h
  cases h
  exact ((((Updates.refl s).checkPointer h1).1.setPair _ _).loadByte h2).advance _

theorem storeDisplaced_updates {p : Pointer} {r : Reg} {q : BitVec 6} {s t : State}
    (h : storeDisplaced p q r s = .next t) : Updates [s.pointer p + q.setWidth 16] e s t := by
  obtain ⟨s1, h1, h⟩ := andThen_eq_next.1 h
  obtain ⟨s2, h2, h⟩ := andThen_eq_next.1 h
  cases h
  have hc := (Updates.refl (A := [s.pointer p + q.setWidth 16]) (e := e) s).checkPointer h1
  obtain ⟨hc, rfl⟩ := hc
  exact (hc.memWrite (by simp) h2).advance _

theorem storeIncrement_updates {p : Pointer} {r : Reg} {s t : State} (h : storeIncrement p r s = .next t) :
    Updates [s.pointer p] e s t := by
  obtain ⟨s1, h1, h⟩ := andThen_eq_next.1 h
  obtain ⟨s2, h2, h⟩ := andThen_eq_next.1 h
  cases h
  obtain ⟨hc, rfl⟩ := (Updates.refl (A := [s.pointer p]) (e := e) s).checkPointer h1
  exact ((hc.memWrite (by simp) h2).setPair _ _).advance _

theorem storeDecrement_updates {p : Pointer} {r : Reg} {s t : State} (h : storeDecrement p r s = .next t) :
    Updates [s.pointer p - 1#16] e s t := by
  obtain ⟨s1, h1, h⟩ := andThen_eq_next.1 h
  obtain ⟨s2, h2, h⟩ := andThen_eq_next.1 h
  cases h
  obtain ⟨hc, rfl⟩ := (Updates.refl (A := [s.pointer p - 1#16]) (e := e) s).checkPointer h1
  exact ((hc.setPair _ _).memWrite (by simp) h2).advance _

theorem loadProgram_updates {d : Reg} {ba : Nat} {s t : State} (h : loadProgram d ba s = .next t) : Updates A e s t := by
  obtain ⟨v, _, h⟩ := andThen_eq_next.1 h
  cases h
  exact ((Updates.refl s).setReg _ _).advance _

theorem loadProgramIncrement_updates {d : Reg} {ba : Nat} {s t : State} (h : loadProgramIncrement d ba s = .next t) :
    Updates A e s t := by
  obtain ⟨v, _, h⟩ := andThen_eq_next.1 h
  cases h
  exact (((Updates.refl s).setReg _ _).setPair _ _).advance _

theorem checkZ_eq_next {d : Reg} {s t : State} (h : checkZ d s = .next t) : t = s := by
  unfold checkZ at h
  split at h <;> cases h
  rfl

theorem ioBit_updates {a : BitVec 5} {b : BitVec 3} {x : Bool} {s t : State} (h : ioBit a b x s = .next t) :
    Updates [ioBitAddress a] e s t := by
  obtain ⟨v, h1, h⟩ := andThen_eq_next.1 h
  obtain ⟨u, h2, h⟩ := andThen_eq_next.1 h
  cases h
  exact (((Updates.refl s).memRead h1).memWrite (by simp) h2).advance _

theorem callTo_updates {n target : PcAddr} {s t : State} (h : callTo n target s = .next t) :
    Updates (pushAddresses s (s.returnAddress n)) e s t := by
  obtain ⟨u, h1, h⟩ := andThen_eq_next.1 h
  cases h
  exact ((Updates.refl s).pushPc (fun _ h => h) h1).setPc _

/-- Setting a flag other than I is no change of I (R278). -/
theorem writeSreg_withBit {s : State} {n : BitVec 3} (h : n ≠ 7#3) :
    s.writeSreg (withBit s.sreg n true) = s.setSreg (withBit s.sreg n true) ∧
      ((withBit s.sreg n true).getLsbD 7 = true → s.sreg.getLsbD 7 = true) := by
  have hb : (withBit s.sreg n true).getLsbD 7 = s.sreg.getLsbD 7 := by
    have := bitOf_withBit s.sreg n 7#3 true
    rw [if_neg (Ne.symm h)] at this
    exact this
  refine ⟨?_, fun hv => hb ▸ hv⟩
  unfold State.writeSreg State.setSreg
  rw [hb]
  cases s.sreg.getLsbD 7 <;> simp

theorem execBset_updates {n : BitVec 3} {s t : State} (h : execBset n s = .next t) : Updates A (n == 7#3) s t := by
  cases h
  by_cases hn : n = 7#3
  · exact Updates.advance ((Updates.refl s).tail (.enableI s _ (by subst hn; rfl))) _
  · obtain ⟨h1, h2⟩ := writeSreg_withBit (s := s) hn
    rw [h1]
    exact Updates.advance ((Updates.refl s).tail (.setSreg s _ h2)) _

theorem execBclr_updates {n : BitVec 3} {s t : State} (h : execBclr n s = .next t) : Updates A e s t := by
  cases h
  refine Updates.advance ((Updates.refl s).tail (.setSreg s _ fun hv => ?_)) _
  have hb := bitOf_withBit s.sreg n 7#3 false
  split at hb
  · rw [show bitOf (withBit s.sreg n false) 7#3 = true from hv] at hb
    cases hb
  · rw [show (withBit s.sreg n false).getLsbD 7 = s.sreg.getLsbD 7 from hb] at hv
    exact hv

theorem addInto_updates {d : Reg} {a b : Byte} {cin : Bool} {s t : State} (h : addInto d a b cin s = .next t) :
    Updates A e s t := by
  cases h
  exact (((Updates.refl s).setReg _ _).setHSVNZC _).advance _

theorem subInto_updates {d : Reg} {a b : Byte} {cin keepZ : Bool} {s t : State}
    (h : subInto d a b cin keepZ s = .next t) : Updates A e s t := by
  cases h
  exact (((Updates.refl s).setReg _ _).setHSVNZC _).advance _

theorem compareBytes_updates {a b : Byte} {cin keepZ : Bool} {s t : State}
    (h : compareBytes a b cin keepZ s = .next t) : Updates A e s t := by
  cases h
  exact ((Updates.refl s).setHSVNZC _).advance _

theorem logicInto_updates {d : Reg} {res : Byte} {s t : State} (h : logicInto d res s = .next t) : Updates A e s t := by
  cases h
  exact (((Updates.refl s).setReg _ _).setSVNZ _ _ _).advance _

theorem shiftInto_updates {d : Reg} {res : Byte} {s t : State} (h : shiftInto d res s = .next t) : Updates A e s t := by
  cases h
  exact (((Updates.refl s).setReg _ _).setSVNZC _).advance _

theorem productInto_updates {p : Word} {s t : State} (h : productInto p s = .next t) : Updates A e s t := by
  cases h
  exact (((Updates.refl s).setPair _ _).setZC _ _).advance _

theorem fractionInto_updates {p : Word} {s t : State} (h : fractionInto p s = .next t) : Updates A e s t := by
  cases h
  exact (((Updates.refl s).setPair _ _).setZC _ _).advance _

theorem branchIf_updates {cond : Bool} {k : BitVec 7} {s t : State} (h : branchIf cond k s = .next t) :
    Updates A e s t := by
  cases h
  split
  · exact (Updates.refl s).setPc _
  · exact (Updates.refl s).advance _

/-- Every instruction's next state is reached by elementary updates, with stores only at its own store addresses. -/
theorem exec_updates {i : Instr} {s t : State} (h : exec i s = .next t) :
    Updates (storeAddresses i s) (enablesI i) s t := by
  cases i
  case ldX d => exact loadDisplaced_updates h
  case ldY d => exact loadDisplaced_updates h
  case ldZ d => exact loadDisplaced_updates h
  case lddY d q => exact loadDisplaced_updates h
  case lddZ d q => exact loadDisplaced_updates h
  case ldXInc d => exact loadIncrement_updates h
  case ldYInc d => exact loadIncrement_updates h
  case ldZInc d => exact loadIncrement_updates h
  case ldXDec d => exact loadDecrement_updates h
  case ldYDec d => exact loadDecrement_updates h
  case ldZDec d => exact loadDecrement_updates h
  case stX r =>
    have := storeDisplaced_updates (e := false) (show storeDisplaced .x 0#6 r s = .next t from h)
    rw [show s.pointer .x + (0#6).setWidth 16 = s.pointer .x from by simp] at this
    exact this
  case stY r =>
    have := storeDisplaced_updates (e := false) (show storeDisplaced .y 0#6 r s = .next t from h)
    rw [show s.pointer .y + (0#6).setWidth 16 = s.pointer .y from by simp] at this
    exact this
  case stZ r =>
    have := storeDisplaced_updates (e := false) (show storeDisplaced .z 0#6 r s = .next t from h)
    rw [show s.pointer .z + (0#6).setWidth 16 = s.pointer .z from by simp] at this
    exact this
  case stdY q r => exact storeDisplaced_updates h
  case stdZ q r => exact storeDisplaced_updates h
  case stXInc r => exact storeIncrement_updates h
  case stYInc r => exact storeIncrement_updates h
  case stZInc r => exact storeIncrement_updates h
  case stXDec r => exact storeDecrement_updates h
  case stYDec r => exact storeDecrement_updates h
  case stZDec r => exact storeDecrement_updates h
  case lpm => exact loadProgram_updates h
  case elpm => exact loadProgram_updates h
  case lpmZ d =>
    simp only [exec, execLpmZ] at h
    obtain ⟨u, h1, h2⟩ := andThen_eq_next.1 h
    cases checkZ_eq_next h1
    exact loadProgram_updates h2
  case elpmZ d =>
    simp only [exec, execElpmZ] at h
    obtain ⟨u, h1, h2⟩ := andThen_eq_next.1 h
    cases checkZ_eq_next h1
    exact loadProgram_updates h2
  case lpmZInc d =>
    simp only [exec, execLpmZInc] at h
    obtain ⟨u, h1, h2⟩ := andThen_eq_next.1 h
    cases checkZ_eq_next h1
    exact loadProgramIncrement_updates h2
  case elpmZInc d =>
    simp only [exec, execElpmZInc] at h
    split at h
    · cases h
    · obtain ⟨u, h1, h2⟩ := andThen_eq_next.1 h
      cases checkZ_eq_next h1
      exact loadProgramIncrement_updates h2
  case lds d k =>
    simp only [exec, execLds] at h
    obtain ⟨u, h1, h⟩ := andThen_eq_next.1 h
    cases h
    exact ((Updates.refl s).loadByte h1).advance _
  case ioIn d a =>
    simp only [exec, execIoIn] at h
    obtain ⟨u, h1, h⟩ := andThen_eq_next.1 h
    cases h
    exact ((Updates.refl s).loadByte h1).advance _
  case sts k r =>
    simp only [exec, execSts] at h
    obtain ⟨u, h1, h⟩ := andThen_eq_next.1 h
    cases h
    exact ((Updates.refl s).memWrite (List.mem_singleton.2 rfl) h1).advance _
  case ioOut a r =>
    simp only [exec, execIoOut] at h
    obtain ⟨u, h1, h⟩ := andThen_eq_next.1 h
    cases h
    exact ((Updates.refl s).memWrite (List.mem_singleton.2 rfl) h1).advance _
  case push r =>
    simp only [exec, execPush] at h
    obtain ⟨u, h1, h⟩ := andThen_eq_next.1 h
    cases h
    exact ((Updates.refl s).push8 (List.mem_singleton.2 rfl) h1).advance _
  case pop d =>
    simp only [exec, execPop] at h
    obtain ⟨u, h1, h⟩ := andThen_eq_next.1 h
    cases h
    exact (((Updates.refl s).pop8 h1).setReg _ _).advance _
  case spm => cases h
  case brk =>
    simp only [exec, execBrk] at h
    split at h <;> cases h
    exact (Updates.refl s).advance _
  case sleep =>
    simp only [exec, execSleep] at h
    split at h <;> cases h
    · exact (Updates.refl s).advance _
    · exact ((Updates.refl s).advance _).tail (.sleep _)
  case wdr =>
    cases h
    exact Updates.advance ((Updates.refl s).tail (.record s _)) _
  case rcall k => exact callTo_updates h
  case icall => exact callTo_updates h
  case eicall => exact callTo_updates h
  case call k => exact callTo_updates h
  case ret =>
    simp only [exec, execRet] at h
    obtain ⟨p, h1, h⟩ := andThen_eq_next.1 h
    cases h
    exact ((Updates.refl s).popPc h1).setPc _
  case reti =>
    simp only [exec, execReti, returnFromInterrupt] at h
    obtain ⟨p, h1, h⟩ := andThen_eq_next.1 h
    cases h
    exact (((Updates.refl s).popPc h1).setPc _).tail (.enableI _ _ rfl)
  case cpse d r => exact (Updates.refl s).skip h
  case sbrc r b => exact (Updates.refl s).skip h
  case sbrs r b => exact (Updates.refl s).skip h
  case sbic a b =>
    simp only [exec, execSbic] at h
    obtain ⟨v, h1, h⟩ := andThen_eq_next.1 h
    exact ((Updates.refl s).memRead h1).skip h
  case sbis a b =>
    simp only [exec, execSbis] at h
    obtain ⟨v, h1, h⟩ := andThen_eq_next.1 h
    exact ((Updates.refl s).memRead h1).skip h
  case sbi a b => exact ioBit_updates h
  case cbi a b => exact ioBit_updates h
  case bset n => exact execBset_updates h
  case sei => exact execBset_updates (n := 7#3) h
  case sec => exact execBset_updates (n := 0#3) h
  case sez => exact execBset_updates (n := 1#3) h
  case sen => exact execBset_updates (n := 2#3) h
  case sev => exact execBset_updates (n := 3#3) h
  case ses => exact execBset_updates (n := 4#3) h
  case seh => exact execBset_updates (n := 5#3) h
  case set => exact execBset_updates (n := 6#3) h
  case bclr n => exact execBclr_updates h
  case clc => exact execBclr_updates (n := 0#3) h
  case clz => exact execBclr_updates (n := 1#3) h
  case cln => exact execBclr_updates (n := 2#3) h
  case clv => exact execBclr_updates (n := 3#3) h
  case cls => exact execBclr_updates (n := 4#3) h
  case clh => exact execBclr_updates (n := 5#3) h
  case clt => exact execBclr_updates (n := 6#3) h
  case cli => exact execBclr_updates (n := 7#3) h
  case bst r b =>
    cases h
    refine Updates.advance ((Updates.refl s).tail (.setSreg s _ fun hv => ?_)) _
    have hb := bitOf_withBit s.sreg 6#3 7#3 (bitOf (s.reg r) b)
    rw [if_neg (by decide)] at hb
    rw [show (withBit s.sreg 6#3 (bitOf (s.reg r) b)).getLsbD 7 = s.sreg.getLsbD 7 from hb] at hv
    exact hv
  case add d r => exact addInto_updates h
  case adc d r => exact addInto_updates h
  case sub d r => exact subInto_updates h
  case subi d k => exact subInto_updates h
  case sbc d r => exact subInto_updates h
  case sbci d k => exact subInto_updates h
  case neg d => exact subInto_updates h
  case cp d r => exact compareBytes_updates h
  case cpc d r => exact compareBytes_updates h
  case cpi d k => exact compareBytes_updates h
  case and d r => exact logicInto_updates h
  case andi d k => exact logicInto_updates h
  case or d r => exact logicInto_updates h
  case ori d k => exact logicInto_updates h
  case eor d r => exact logicInto_updates h
  case sbr d k => exact logicInto_updates h
  case cbr d k => exact logicInto_updates h
  case tst d => exact logicInto_updates h
  case clr d => exact logicInto_updates h
  case lsr d => exact shiftInto_updates h
  case ror d => exact shiftInto_updates h
  case asr d => exact shiftInto_updates h
  case mul d r => exact productInto_updates h
  case muls d r => exact productInto_updates h
  case mulsu d r => exact productInto_updates h
  case fmul d r => exact fractionInto_updates h
  case fmuls d r => exact fractionInto_updates h
  case fmulsu d r => exact fractionInto_updates h
  case brbs n k => exact branchIf_updates h
  case brbc n k => exact branchIf_updates h
  case breq k => exact branchIf_updates h
  case brne k => exact branchIf_updates h
  case brcs k => exact branchIf_updates h
  case brcc k => exact branchIf_updates h
  case brsh k => exact branchIf_updates h
  case brlo k => exact branchIf_updates h
  case brmi k => exact branchIf_updates h
  case brpl k => exact branchIf_updates h
  case brge k => exact branchIf_updates h
  case brlt k => exact branchIf_updates h
  case brhs k => exact branchIf_updates h
  case brhc k => exact branchIf_updates h
  case brts k => exact branchIf_updates h
  case brtc k => exact branchIf_updates h
  case brvs k => exact branchIf_updates h
  case brvc k => exact branchIf_updates h
  case brie k => exact branchIf_updates h
  case brid k => exact branchIf_updates h
  case mov d r =>
    cases h
    exact ((Updates.refl s).setReg _ _).advance _
  case ldi d k =>
    cases h
    exact ((Updates.refl s).setReg _ _).advance _
  case ser d =>
    cases h
    exact ((Updates.refl s).setReg _ _).advance _
  case swap d =>
    cases h
    exact ((Updates.refl s).setReg _ _).advance _
  case bld r b =>
    cases h
    exact ((Updates.refl s).setReg _ _).advance _
  case movw d r =>
    cases h
    exact ((Updates.refl s).setPair _ _).advance _
  case adiw d k =>
    cases h
    exact (((Updates.refl s).setPair _ _).setSVNZC _).advance _
  case sbiw d k =>
    cases h
    exact (((Updates.refl s).setPair _ _).setSVNZC _).advance _
  case com d =>
    cases h
    exact (((Updates.refl s).setReg _ _).setSVNZC _).advance _
  case inc d =>
    cases h
    exact (((Updates.refl s).setReg _ _).setSVNZ _ _ _).advance _
  case dec d =>
    cases h
    exact (((Updates.refl s).setReg _ _).setSVNZ _ _ _).advance _
  case lsl d =>
    cases h
    exact (((Updates.refl s).setReg _ _).setHSVNZC _).advance _
  case rol d =>
    cases h
    exact (((Updates.refl s).setReg _ _).setHSVNZC _).advance _
  case nop =>
    cases h
    exact (Updates.refl s).advance _
  case rjmp k =>
    cases h
    exact (Updates.refl s).setPc _
  case ijmp =>
    cases h
    exact (Updates.refl s).setPc _
  case eijmp =>
    cases h
    exact (Updates.refl s).setPc _
  case jmp k =>
    cases h
    exact (Updates.refl s).setPc _

end Sys2Proof.Machine
end

