-- ==== Sys2Proof/Machine/Timing.lean ====
section
/-! DEFINITION. The cycle counts of the source's column T., as rule R350 transcribes them. Data only: no step reads or counts
cycles (R352). -/

namespace Sys2Proof.Machine

/-- An entry of the column T. -/
inductive CycleCount where
  /-- `-`: no count given (SPM). -/
  | none
  /-- One figure. -/
  | fixed (n : Nat)
  /-- `3/4`, of RCALL and ICALL. -/
  | threeOrFour
  /-- `1/2`: not taken, taken. -/
  | branch
  /-- `1/2/3`: no skip, one word skipped, two words skipped. -/
  | skip
  deriving DecidableEq, Repr

/-- The entry of the column T. for each row (R350). -/
def cyclesOf : Instr → CycleCount
  | .add _ _ => .fixed 1
  | .adc _ _ => .fixed 1
  | .adiw _ _ => .fixed 2
  | .sub _ _ => .fixed 1
  | .subi _ _ => .fixed 1
  | .sbc _ _ => .fixed 1
  | .sbci _ _ => .fixed 1
  | .sbiw _ _ => .fixed 2
  | .and _ _ => .fixed 1
  | .andi _ _ => .fixed 1
  | .or _ _ => .fixed 1
  | .ori _ _ => .fixed 1
  | .eor _ _ => .fixed 1
  | .com _ => .fixed 1
  | .neg _ => .fixed 1
  | .sbr _ _ => .fixed 1
  | .cbr _ _ => .fixed 1
  | .inc _ => .fixed 1
  | .dec _ => .fixed 1
  | .tst _ => .fixed 1
  | .clr _ => .fixed 1
  | .ser _ => .fixed 1
  | .mul _ _ => .fixed 2
  | .muls _ _ => .fixed 2
  | .mulsu _ _ => .fixed 2
  | .fmul _ _ => .fixed 2
  | .fmuls _ _ => .fixed 2
  | .fmulsu _ _ => .fixed 2
  | .mov _ _ => .fixed 1
  | .movw _ _ => .fixed 1
  | .ldi _ _ => .fixed 1
  | .lds _ _ => .fixed 2
  | .ldX _ => .fixed 2
  | .ldY _ => .fixed 2
  | .ldZ _ => .fixed 2
  | .ldXInc _ => .fixed 2
  | .ldYInc _ => .fixed 2
  | .ldZInc _ => .fixed 2
  | .ldXDec _ => .fixed 2
  | .ldYDec _ => .fixed 2
  | .ldZDec _ => .fixed 2
  | .lddY _ _ => .fixed 2
  | .lddZ _ _ => .fixed 2
  | .sts _ _ => .fixed 2
  | .stX _ => .fixed 2
  | .stY _ => .fixed 2
  | .stZ _ => .fixed 2
  | .stXInc _ => .fixed 2
  | .stYInc _ => .fixed 2
  | .stZInc _ => .fixed 2
  | .stXDec _ => .fixed 2
  | .stYDec _ => .fixed 2
  | .stZDec _ => .fixed 2
  | .stdY _ _ => .fixed 2
  | .stdZ _ _ => .fixed 2
  | .lpm => .fixed 3
  | .lpmZ _ => .fixed 3
  | .lpmZInc _ => .fixed 3
  | .elpm => .fixed 3
  | .elpmZ _ => .fixed 3
  | .elpmZInc _ => .fixed 3
  | .spm => .none
  | .ioIn _ _ => .fixed 1
  | .ioOut _ _ => .fixed 1
  | .push _ => .fixed 2
  | .pop _ => .fixed 2
  | .brk => .fixed 1
  | .nop => .fixed 1
  | .sleep => .fixed 1
  | .wdr => .fixed 1
  | .rjmp _ => .fixed 2
  | .ijmp => .fixed 2
  | .eijmp => .fixed 2
  | .jmp _ => .fixed 3
  | .rcall _ => .threeOrFour
  | .icall => .threeOrFour
  | .eicall => .fixed 4
  | .call _ => .fixed 4
  | .ret => .fixed 4
  | .reti => .fixed 4
  | .cpse _ _ => .skip
  | .cp _ _ => .fixed 1
  | .cpc _ _ => .fixed 1
  | .cpi _ _ => .fixed 1
  | .sbrc _ _ => .skip
  | .sbrs _ _ => .skip
  | .sbic _ _ => .skip
  | .sbis _ _ => .skip
  | .brbs _ _ => .branch
  | .brbc _ _ => .branch
  | .breq _ => .branch
  | .brne _ => .branch
  | .brcs _ => .branch
  | .brcc _ => .branch
  | .brsh _ => .branch
  | .brlo _ => .branch
  | .brmi _ => .branch
  | .brpl _ => .branch
  | .brge _ => .branch
  | .brlt _ => .branch
  | .brhs _ => .branch
  | .brhc _ => .branch
  | .brts _ => .branch
  | .brtc _ => .branch
  | .brvs _ => .branch
  | .brvc _ => .branch
  | .brie _ => .branch
  | .brid _ => .branch
  | .sbi _ _ => .fixed 2
  | .cbi _ _ => .fixed 2
  | .lsl _ => .fixed 1
  | .lsr _ => .fixed 1
  | .rol _ => .fixed 1
  | .ror _ => .fixed 1
  | .asr _ => .fixed 1
  | .swap _ => .fixed 1
  | .bset _ => .fixed 1
  | .bclr _ => .fixed 1
  | .bst _ _ => .fixed 1
  | .bld _ _ => .fixed 1
  | .sec => .fixed 1
  | .clc => .fixed 1
  | .sez => .fixed 1
  | .clz => .fixed 1
  | .sen => .fixed 1
  | .cln => .fixed 1
  | .sev => .fixed 1
  | .clv => .fixed 1
  | .ses => .fixed 1
  | .cls => .fixed 1
  | .seh => .fixed 1
  | .clh => .fixed 1
  | .set => .fixed 1
  | .clt => .fixed 1
  | .sei => .fixed 1
  | .cli => .fixed 1

end Sys2Proof.Machine
end

