-- ==== Sys2Proof/Tests/Slice0.lean ====
section
/-! SUPPORT. Tests on fixed values, and for each statement that has hypotheses a state that meets them. The expected values are the
spec's: the encodings of spec/opcode_table.json, the reserved words of R114, the alias words of 95_test_vectors.md section
1.2, and the vectors of 96_test_vectors_by_family.md and 95_test_vectors.md named at each test. -/

set_option Elab.async false

namespace Sys2Proof.Tests

open Sys2Proof.Machine

/-! ### Well-formedness: one ill-formed operand for each check (R120) -/

theorem test_wf_upper_subi : (Instr.subi 15#5 0x1#8).wf = false := by decide
theorem test_wf_upper_sbci : (Instr.sbci 15#5 0x1#8).wf = false := by decide
theorem test_wf_upper_andi : (Instr.andi 0#5 0x1#8).wf = false := by decide
theorem test_wf_upper_ori : (Instr.ori 15#5 0x1#8).wf = false := by decide
theorem test_wf_upper_sbr : (Instr.sbr 15#5 0x1#8).wf = false := by decide
theorem test_wf_upper_cbr : (Instr.cbr 15#5 0x1#8).wf = false := by decide
theorem test_wf_upper_ser : (Instr.ser 15#5).wf = false := by decide
theorem test_wf_upper_ldi : (Instr.ldi 15#5 0x1#8).wf = false := by decide
theorem test_wf_upper_cpi : (Instr.cpi 15#5 0x1#8).wf = false := by decide
theorem test_wf_upper_muls_first : (Instr.muls 15#5 16#5).wf = false := by decide
theorem test_wf_upper_muls_second : (Instr.muls 16#5 15#5).wf = false := by decide
theorem test_wf_middle_mulsu_first : (Instr.mulsu 15#5 16#5).wf = false := by decide
theorem test_wf_middle_mulsu_second : (Instr.mulsu 16#5 24#5).wf = false := by decide
theorem test_wf_middle_fmul_first : (Instr.fmul 24#5 16#5).wf = false := by decide
theorem test_wf_middle_fmul_second : (Instr.fmul 16#5 15#5).wf = false := by decide
theorem test_wf_middle_fmuls_first : (Instr.fmuls 15#5 16#5).wf = false := by decide
theorem test_wf_middle_fmuls_second : (Instr.fmuls 16#5 24#5).wf = false := by decide
theorem test_wf_middle_fmulsu_first : (Instr.fmulsu 24#5 16#5).wf = false := by decide
theorem test_wf_middle_fmulsu_second : (Instr.fmulsu 16#5 15#5).wf = false := by decide
theorem test_wf_pair_adiw_low : (Instr.adiw 22#5 1#6).wf = false := by decide
theorem test_wf_pair_adiw_odd : (Instr.adiw 25#5 1#6).wf = false := by decide
theorem test_wf_pair_sbiw_low : (Instr.sbiw 22#5 1#6).wf = false := by decide
theorem test_wf_pair_sbiw_odd : (Instr.sbiw 31#5 1#6).wf = false := by decide
theorem test_wf_even_movw_first : (Instr.movw 1#5 0#5).wf = false := by decide
theorem test_wf_even_movw_second : (Instr.movw 0#5 1#5).wf = false := by decide

/-- The operands at the edges of each check are well-formed. -/
theorem test_wf_accepts :
    [Instr.subi 16#5 0x0#8, .muls 16#5 31#5, .mulsu 16#5 23#5, .fmulsu 23#5 16#5, .adiw 24#5 63#6, .sbiw 30#5 0#6, .movw 30#5 0#5, .ser 31#5].all Instr.wf = true := by
  decide

/-! ### Decoding: for every real row a word written out bit by bit from the row's encoding -/

theorem test_decode_arithmetic_logic :
    [(0b0000110101011010#16, 0#16, Instr.add 21#5 10#5),
     (0b0001110101011010#16, 0#16, Instr.adc 21#5 10#5),
     (0b1001011010101101#16, 0#16, Instr.adiw 28#5 45#6),
     (0b0001100101011010#16, 0#16, Instr.sub 21#5 10#5),
     (0b0101101101010110#16, 0#16, Instr.subi 21#5 0xB6#8),
     (0b0000100101011010#16, 0#16, Instr.sbc 21#5 10#5),
     (0b0100101101010110#16, 0#16, Instr.sbci 21#5 0xB6#8),
     (0b1001011110101101#16, 0#16, Instr.sbiw 28#5 45#6),
     (0b0010000101011010#16, 0#16, Instr.and 21#5 10#5),
     (0b0111101101010110#16, 0#16, Instr.andi 21#5 0xB6#8),
     (0b0010100101011010#16, 0#16, Instr.or 21#5 10#5),
     (0b0110101101010110#16, 0#16, Instr.ori 21#5 0xB6#8),
     (0b0010010101011010#16, 0#16, Instr.eor 21#5 10#5),
     (0b1001010101010000#16, 0#16, Instr.com 21#5),
     (0b1001010101010001#16, 0#16, Instr.neg 21#5),
     (0b1001010101010011#16, 0#16, Instr.inc 21#5),
     (0b1001010101011010#16, 0#16, Instr.dec 21#5),
     (0b1001110101011010#16, 0#16, Instr.mul 21#5 10#5),
     (0b0000001001011010#16, 0#16, Instr.muls 21#5 26#5),
     (0b0000001101010010#16, 0#16, Instr.mulsu 21#5 18#5),
     (0b0000001101011010#16, 0#16, Instr.fmul 21#5 18#5),
     (0b0000001111010010#16, 0#16, Instr.fmuls 21#5 18#5),
     (0b0000001111011010#16, 0#16, Instr.fmulsu 21#5 18#5)].all
      (fun p => decodeWords p.1 p.2.1 == some p.2.2) = true := by decide +kernel

theorem test_decode_data_transfer :
    [(0b0010110101011010#16, 0#16, Instr.mov 21#5 10#5),
     (0b0000000110110101#16, 0#16, Instr.movw 22#5 10#5),
     (0b1110101101010110#16, 0#16, Instr.ldi 21#5 0xB6#8),
     (0b1001000101010000#16, 0b1010101111001101#16, Instr.lds 21#5 0xABCD#16),
     (0b1001000101011100#16, 0#16, Instr.ldX 21#5),
     (0b1001000101011101#16, 0#16, Instr.ldXInc 21#5),
     (0b1001000101011001#16, 0#16, Instr.ldYInc 21#5),
     (0b1001000101010001#16, 0#16, Instr.ldZInc 21#5),
     (0b1001000101011110#16, 0#16, Instr.ldXDec 21#5),
     (0b1001000101011010#16, 0#16, Instr.ldYDec 21#5),
     (0b1001000101010010#16, 0#16, Instr.ldZDec 21#5),
     (0b1010010101011101#16, 0#16, Instr.lddY 21#5 45#6),
     (0b1010010101010101#16, 0#16, Instr.lddZ 21#5 45#6),
     (0b1001001101010000#16, 0b1010101111001101#16, Instr.sts 0xABCD#16 21#5),
     (0b1001001101011100#16, 0#16, Instr.stX 21#5),
     (0b1001001101011101#16, 0#16, Instr.stXInc 21#5),
     (0b1001001101011001#16, 0#16, Instr.stYInc 21#5),
     (0b1001001101010001#16, 0#16, Instr.stZInc 21#5),
     (0b1001001101011110#16, 0#16, Instr.stXDec 21#5),
     (0b1001001101011010#16, 0#16, Instr.stYDec 21#5),
     (0b1001001101010010#16, 0#16, Instr.stZDec 21#5),
     (0b1010011101011101#16, 0#16, Instr.stdY 45#6 21#5),
     (0b1010011101010101#16, 0#16, Instr.stdZ 45#6 21#5),
     (0b1001010111001000#16, 0#16, Instr.lpm),
     (0b1001000101010100#16, 0#16, Instr.lpmZ 21#5),
     (0b1001000101010101#16, 0#16, Instr.lpmZInc 21#5),
     (0b1001010111011000#16, 0#16, Instr.elpm),
     (0b1001000101010110#16, 0#16, Instr.elpmZ 21#5),
     (0b1001000101010111#16, 0#16, Instr.elpmZInc 21#5),
     (0b1001010111101000#16, 0#16, Instr.spm),
     (0b1011010101011101#16, 0#16, Instr.ioIn 21#5 45#6),
     (0b1011110101011101#16, 0#16, Instr.ioOut 45#6 21#5),
     (0b1001001101011111#16, 0#16, Instr.push 21#5),
     (0b1001000101011111#16, 0#16, Instr.pop 21#5)].all
      (fun p => decodeWords p.1 p.2.1 == some p.2.2) = true := by decide +kernel

theorem test_decode_mcu_control :
    [(0b1001010110011000#16, 0#16, Instr.brk),
     (0b0000000000000000#16, 0#16, Instr.nop),
     (0b1001010110001000#16, 0#16, Instr.sleep),
     (0b1001010110101000#16, 0#16, Instr.wdr)].all
      (fun p => decodeWords p.1 p.2.1 == some p.2.2) = true := by decide +kernel

theorem test_decode_branch :
    [(0b1100101001011100#16, 0#16, Instr.rjmp 0xA5C#12),
     (0b1001010000001001#16, 0#16, Instr.ijmp),
     (0b1001010000011001#16, 0#16, Instr.eijmp),
     (0b1001010101011100#16, 0b0101110000110110#16, Instr.jmp 0x2A5C36#22),
     (0b1101101001011100#16, 0#16, Instr.rcall 0xA5C#12),
     (0b1001010100001001#16, 0#16, Instr.icall),
     (0b1001010100011001#16, 0#16, Instr.eicall),
     (0b1001010101011110#16, 0b0101110000110110#16, Instr.call 0x2A5C36#22),
     (0b1001010100001000#16, 0#16, Instr.ret),
     (0b1001010100011000#16, 0#16, Instr.reti),
     (0b0001000101011010#16, 0#16, Instr.cpse 21#5 10#5),
     (0b0001010101011010#16, 0#16, Instr.cp 21#5 10#5),
     (0b0000010101011010#16, 0#16, Instr.cpc 21#5 10#5),
     (0b0011101101010110#16, 0#16, Instr.cpi 21#5 0xB6#8),
     (0b1111110101010101#16, 0#16, Instr.sbrc 21#5 5#3),
     (0b1111111101010101#16, 0#16, Instr.sbrs 21#5 5#3),
     (0b1001100110110101#16, 0#16, Instr.sbic 22#5 5#3),
     (0b1001101110110101#16, 0#16, Instr.sbis 22#5 5#3),
     (0b1111001011010011#16, 0#16, Instr.brbs 3#3 90#7),
     (0b1111011011010011#16, 0#16, Instr.brbc 3#3 90#7)].all
      (fun p => decodeWords p.1 p.2.1 == some p.2.2) = true := by decide +kernel

theorem test_decode_bit :
    [(0b1001101010110101#16, 0#16, Instr.sbi 22#5 5#3),
     (0b1001100010110101#16, 0#16, Instr.cbi 22#5 5#3),
     (0b1001010101010110#16, 0#16, Instr.lsr 21#5),
     (0b1001010101010111#16, 0#16, Instr.ror 21#5),
     (0b1001010101010101#16, 0#16, Instr.asr 21#5),
     (0b1001010101010010#16, 0#16, Instr.swap 21#5),
     (0b1001010000111000#16, 0#16, Instr.bset 3#3),
     (0b1001010010111000#16, 0#16, Instr.bclr 3#3),
     (0b1111101101010101#16, 0#16, Instr.bst 21#5 5#3),
     (0b1111100101010101#16, 0#16, Instr.bld 21#5 5#3)].all
      (fun p => decodeWords p.1 p.2.1 == some p.2.2) = true := by decide +kernel

/-- The alias rows: the words of 95_test_vectors.md section 1.2 (and v3.3.2, v3.3.3, v3.4.2, v3.4.3). -/
theorem test_alias_words :
    [(Instr.sbr 16#5 0xF#8, 0x600F#16), (.cbr 16#5 0xF#8, 0x7F00#16), (.tst 5#5, 0x2055#16),
     (.clr 17#5, 0x2711#16), (.ser 16#5, 0xEF0F#16), (.lsl 5#5, 0x0C55#16),
     (.rol 5#5, 0x1C55#16), (.breq 2#7, 0xF011#16), (.brne 124#7, 0xF7E1#16),
     (.brcs 2#7, 0xF010#16), (.brcc 2#7, 0xF410#16), (.brsh 2#7, 0xF410#16),
     (.brlo 2#7, 0xF010#16), (.brmi 2#7, 0xF012#16), (.brpl 2#7, 0xF412#16),
     (.brge 1#7, 0xF40C#16), (.brlt 1#7, 0xF00C#16), (.brhs 2#7, 0xF015#16),
     (.brhc 2#7, 0xF415#16), (.brts 2#7, 0xF016#16), (.brtc 2#7, 0xF416#16),
     (.brvs 2#7, 0xF013#16), (.brvc 2#7, 0xF413#16), (.brie 2#7, 0xF017#16),
     (.brid 2#7, 0xF417#16), (.sec, 0x9408#16), (.sez, 0x9418#16),
     (.sen, 0x9428#16), (.sev, 0x9438#16), (.ses, 0x9448#16),
     (.seh, 0x9458#16), (.set, 0x9468#16), (.sei, 0x9478#16),
     (.clc, 0x9488#16), (.clz, 0x9498#16), (.cln, 0x94A8#16),
     (.clv, 0x94B8#16), (.cls, 0x94C8#16), (.clh, 0x94D8#16),
     (.clt, 0x94E8#16), (.cli, 0x94F8#16), (.ldY 4#5, 0x8048#16),
     (.ldZ 4#5, 0x8040#16), (.stY 4#5, 0x8248#16), (.stZ 4#5, 0x8240#16)].all
      (fun p => encode p.1 == [p.2] && decodeWords p.2 0#16 == some p.1.expand) = true := by decide +kernel

/-- The reserved words of 95_test_vectors.md section 7.1 (v7.1.1 to v7.1.19). -/
theorem test_reserved_words :
    [0x0001#16, 0x00FF#16, 0x9003#16, 0x9008#16, 0x900B#16, 0x9203#16, 0x9204#16, 0x9208#16, 0x920B#16, 0x9404#16,
     0x940B#16, 0x9429#16, 0x9528#16, 0x95F8#16, 0xF808#16, 0xFA08#16, 0xFC08#16, 0xFE08#16, 0xFFFF#16].all
      (fun w => (decodeWords w 0#16).isNone) = true := by decide +kernel

/-- The decoder names why it refuses: no bytes, a first word cut short, a reserved word (R90, R113). -/
theorem test_decode_rejects :
    (decode [] matches .error _) ∧ (decode [0x00#8] matches .error _) ∧ (decode [0xFF#8, 0xFF#8] matches .error _) ∧
      (decode [0x0E#8, 0x94#8, 0x10#8] matches .error _) := by decide

/-- The table's numbering: CALL 0x3ABCDE is 0x95DE 0xBCDE (v5.2.5), the second word in bits 31 to 16. -/
theorem test_table_word_two_words : decodeTableWord 32 0xBCDE95DE = some (.call 0x3ABCDE#22) := by decide +kernel

theorem test_table_word_one_word : decodeTableWord 16 0x0F01 = some (.add 16#5 17#5) := by decide +kernel

/-! ### One step of each instruction, on vectors of the spec -/

/-- A reset state with some general registers, program words, RAM bytes and SREG set. -/
def start (regs : List (Nat × Nat)) (sreg : Byte) (ram : List (Nat × Nat) := []) (program : List (Nat × Nat) := []) : State :=
  let s : State := { State.reset with sreg := sreg }
  let s := regs.foldl (fun s p => s.setReg (BitVec.ofNat 5 p.1) (BitVec.ofNat 8 p.2)) s
  let s := ram.foldl (fun s p => s.setRam (BitVec.ofNat 16 p.1) (BitVec.ofNat 8 p.2)) s
  program.foldl (fun s p => s.loadWord p.1 (BitVec.ofNat 16 p.2)) s

/-- The instruction ends with a next state that passes the check. -/
def gives (i : Instr) (s : State) (check : State → Bool) : Bool :=
  match exec i s with
  | .next t => check t
  | _ => false

/-- v2.1.3: `ADD R16,R17`. -/
theorem test_add : gives (.add 16#5 17#5) (start [(16, 0x7F), (17, 0x01)] 0x00#8)
    (fun t => t.reg 16#5 == 0x80#8 && t.sreg == 0x2C#8) = true := by decide +kernel

/-- v2.1.4: `ADD R16,R17`. -/
theorem test_add_again : gives (.add 16#5 17#5) (start [(16, 0x80), (17, 0x80)] 0x00#8)
    (fun t => t.reg 16#5 == 0x00#8 && t.sreg == 0x1B#8) = true := by decide +kernel

/-- v2.1.7: `ADC R2,R3`. -/
theorem test_adc : gives (.adc 2#5 3#5) (start [(2, 0xFF), (3, 0x00)] 0x01#8)
    (fun t => t.reg 2#5 == 0x00#8 && t.sreg == 0x23#8) = true := by decide +kernel

/-- v2.1.9: `ADC R2,R3`. -/
theorem test_adc_again : gives (.adc 2#5 3#5) (start [(2, 0x7F), (3, 0x00)] 0x01#8)
    (fun t => t.reg 2#5 == 0x80#8 && t.sreg == 0x2C#8) = true := by decide +kernel

/-- v2.1.13: `ADIW R30,63`. -/
theorem test_adiw : gives (.adiw 30#5 63#6) (start [(30, 0xC1), (31, 0x00)] 0x00#8)
    (fun t => t.reg 30#5 == 0x00#8 && t.reg 31#5 == 0x01#8) = true := by decide +kernel

/-- v2.1.14: `ADIW R26,0`. -/
theorem test_adiw_again : gives (.adiw 26#5 0#6) (start [(26, 0x00), (27, 0x00)] 0x21#8)
    (fun t => t.sreg == 0x22#8) = true := by decide +kernel

/-- v2.2.2: `SUB R16,R17`. -/
theorem test_sub : gives (.sub 16#5 17#5) (start [(16, 0x00), (17, 0x01)] 0x00#8)
    (fun t => t.reg 16#5 == 0xFF#8 && t.sreg == 0x35#8) = true := by decide +kernel

/-- v2.2.3: `SUB R16,R17`. -/
theorem test_sub_again : gives (.sub 16#5 17#5) (start [(16, 0x80), (17, 0x01)] 0x00#8)
    (fun t => t.reg 16#5 == 0x7F#8 && t.sreg == 0x38#8) = true := by decide +kernel

/-- v2.2.6: `SUBI R16,0x01`. -/
theorem test_subi : gives (.subi 16#5 0x1#8) (start [(16, 0x00)] 0x00#8)
    (fun t => t.reg 16#5 == 0xFF#8 && t.sreg == 0x35#8) = true := by decide +kernel

/-- v2.2.7: `SUBI R31,0xFF`. -/
theorem test_subi_again : gives (.subi 31#5 0xFF#8) (start [(31, 0x00)] 0x00#8)
    (fun t => t.reg 31#5 == 0x01#8 && t.sreg == 0x21#8) = true := by decide +kernel

/-- v2.2.9: `SBC R17,R19`. -/
theorem test_sbc : gives (.sbc 17#5 19#5) (start [(17, 0x00), (19, 0x00)] 0x02#8)
    (fun t => t.sreg == 0x02#8) = true := by decide +kernel

/-- v2.2.12: `SBC R17,R19`. -/
theorem test_sbc_again : gives (.sbc 17#5 19#5) (start [(17, 0x05), (19, 0x02)] 0x02#8)
    (fun t => t.reg 17#5 == 0x03#8 && t.sreg == 0x00#8) = true := by decide +kernel

/-- v2.2.14: `SBCI R17,0x00`. -/
theorem test_sbci : gives (.sbci 17#5 0x0#8) (start [(17, 0x00)] 0x01#8)
    (fun t => t.reg 17#5 == 0xFF#8 && t.sreg == 0x35#8) = true := by decide +kernel

/-- v2.2.15: `SBCI R17,0x12`. -/
theorem test_sbci_again : gives (.sbci 17#5 0x12#8) (start [(17, 0x12)] 0x02#8)
    (fun t => t.reg 17#5 == 0x00#8) = true := by decide +kernel

/-- v2.2.16: `SBIW R24,1`. -/
theorem test_sbiw : gives (.sbiw 24#5 1#6) (start [(24, 0x00), (25, 0x00)] 0x00#8)
    (fun t => t.reg 24#5 == 0xFF#8 && t.reg 25#5 == 0xFF#8 && t.sreg == 0x15#8) = true := by decide +kernel

/-- v2.2.17: `SBIW R24,1`. -/
theorem test_sbiw_again : gives (.sbiw 24#5 1#6) (start [(24, 0x00), (25, 0x80)] 0x00#8)
    (fun t => t.reg 24#5 == 0xFF#8 && t.reg 25#5 == 0x7F#8 && t.sreg == 0x18#8) = true := by decide +kernel

/-- v2.3.1: `AND R1,R2`. -/
theorem test_and : gives (.and 1#5 2#5) (start [(1, 0xF0), (2, 0x3C)] 0x29#8)
    (fun t => t.reg 1#5 == 0x30#8 && t.sreg == 0x21#8) = true := by decide +kernel

/-- v2.3.2: `AND R1,R2`. -/
theorem test_and_again : gives (.and 1#5 2#5) (start [(1, 0xF0), (2, 0x0F)] 0x08#8)
    (fun t => t.reg 1#5 == 0x00#8 && t.sreg == 0x02#8) = true := by decide +kernel

/-- v2.3.3: `ANDI R16,0x0F`. -/
theorem test_andi : gives (.andi 16#5 0xF#8) (start [(16, 0xA5)] 0x00#8)
    (fun t => t.reg 16#5 == 0x05#8) = true := by decide +kernel

/-- v2.3.4: `ANDI R31,0x80`. -/
theorem test_andi_again : gives (.andi 31#5 0x80#8) (start [(31, 0xFF)] 0x00#8)
    (fun t => t.reg 31#5 == 0x80#8 && t.sreg == 0x14#8) = true := by decide +kernel

/-- v2.3.5: `OR R1,R2`. -/
theorem test_or : gives (.or 1#5 2#5) (start [(1, 0x80), (2, 0x01)] 0x08#8)
    (fun t => t.reg 1#5 == 0x81#8 && t.sreg == 0x14#8) = true := by decide +kernel

/-- v2.3.6: `OR R1,R2`. -/
theorem test_or_again : gives (.or 1#5 2#5) (start [(1, 0x00), (2, 0x00)] 0x00#8)
    (fun t => t.sreg == 0x02#8) = true := by decide +kernel

/-- v2.3.7: `ORI R16,0x55`. -/
theorem test_ori : gives (.ori 16#5 0x55#8) (start [(16, 0x0A)] 0x00#8)
    (fun t => t.reg 16#5 == 0x5F#8) = true := by decide +kernel

/-- v2.3.8: `EOR R3,R4`. -/
theorem test_eor : gives (.eor 3#5 4#5) (start [(3, 0xFF), (4, 0x0F)] 0x00#8)
    (fun t => t.reg 3#5 == 0xF0#8 && t.sreg == 0x14#8) = true := by decide +kernel

/-- v2.3.9: `EOR R3,R4`. -/
theorem test_eor_again : gives (.eor 3#5 4#5) (start [(3, 0x5A), (4, 0x5A)] 0x01#8)
    (fun t => t.reg 3#5 == 0x00#8 && t.sreg == 0x03#8) = true := by decide +kernel

/-- v2.3.11: `COM R13`. -/
theorem test_com : gives (.com 13#5) (start [(13, 0xFF)] 0x00#8)
    (fun t => t.reg 13#5 == 0x00#8 && t.sreg == 0x03#8) = true := by decide +kernel

/-- v2.3.12: `COM R13`. -/
theorem test_com_again : gives (.com 13#5) (start [(13, 0x00)] 0x20#8)
    (fun t => t.reg 13#5 == 0xFF#8 && t.sreg == 0x35#8) = true := by decide +kernel

/-- v2.3.14: `NEG R14`. -/
theorem test_neg : gives (.neg 14#5) (start [(14, 0x80)] 0x00#8)
    (fun t => t.sreg == 0x0D#8) = true := by decide +kernel

/-- v2.3.16: `NEG R14`. -/
theorem test_neg_again : gives (.neg 14#5) (start [(14, 0x10)] 0x00#8)
    (fun t => t.reg 14#5 == 0xF0#8 && t.sreg == 0x15#8) = true := by decide +kernel

/-- v2.3.17: `SBR R16,0x81`. -/
theorem test_sbr : gives (.sbr 16#5 0x81#8) (start [(16, 0x10)] 0x00#8)
    (fun t => t.reg 16#5 == 0x91#8 && t.sreg == 0x14#8) = true := by decide +kernel

/-- v2.3.18: `CBR R16,0x0F`. -/
theorem test_cbr : gives (.cbr 16#5 0xF#8) (start [(16, 0xAB)] 0x00#8)
    (fun t => t.reg 16#5 == 0xA0#8 && t.sreg == 0x14#8) = true := by decide +kernel

/-- v2.4.1: `INC R15`. -/
theorem test_inc : gives (.inc 15#5) (start [(15, 0x7F)] 0x01#8)
    (fun t => t.reg 15#5 == 0x80#8 && t.sreg == 0x0D#8) = true := by decide +kernel

/-- v2.4.3: `INC R15`. -/
theorem test_inc_again : gives (.inc 15#5) (start [(15, 0x80)] 0x21#8)
    (fun t => t.reg 15#5 == 0x81#8 && t.sreg == 0x35#8) = true := by decide +kernel

/-- v2.4.4: `DEC R15`. -/
theorem test_dec : gives (.dec 15#5) (start [(15, 0x80)] 0x00#8)
    (fun t => t.reg 15#5 == 0x7F#8 && t.sreg == 0x18#8) = true := by decide +kernel

/-- v2.4.5: `DEC R15`. -/
theorem test_dec_again : gives (.dec 15#5) (start [(15, 0x00)] 0x00#8)
    (fun t => t.reg 15#5 == 0xFF#8 && t.sreg == 0x14#8) = true := by decide +kernel

/-- v2.3.19: `TST R7`. -/
theorem test_tst : gives (.tst 7#5) (start [(7, 0x00)] 0x09#8)
    (fun t => t.sreg == 0x03#8) = true := by decide +kernel

/-- v2.3.20: `TST R7`. -/
theorem test_tst_again : gives (.tst 7#5) (start [(7, 0x80)] 0x00#8)
    (fun t => t.sreg == 0x14#8) = true := by decide +kernel

/-- v2.3.21: `CLR R7`. -/
theorem test_clr : gives (.clr 7#5) (start [(7, 0xEE)] 0xFD#8)
    (fun t => t.reg 7#5 == 0x00#8 && t.sreg == 0xE3#8) = true := by decide +kernel

/-- v2.3.22: `SER R16`. -/
theorem test_ser : gives (.ser 16#5) (start [(16, 0x00)] 0x02#8)
    (fun t => t.reg 16#5 == 0xFF#8) = true := by decide +kernel

/-- v2.5.1: `MUL R2,R3`. -/
theorem test_mul : gives (.mul 2#5 3#5) (start [(2, 0xFF), (3, 0xFF)] 0x00#8)
    (fun t => t.reg 0#5 == 0x01#8 && t.reg 1#5 == 0xFE#8 && t.sreg == 0x01#8) = true := by decide +kernel

/-- v2.5.4: `MUL R0,R1`. -/
theorem test_mul_again : gives (.mul 0#5 1#5) (start [(0, 0x03), (1, 0x05)] 0x00#8)
    (fun t => t.reg 0#5 == 0x0F#8 && t.reg 1#5 == 0x00#8) = true := by decide +kernel

/-- v2.5.6: `MULS R16,R17`. -/
theorem test_muls : gives (.muls 16#5 17#5) (start [(16, 0x80), (17, 0x7F)] 0x00#8)
    (fun t => t.reg 0#5 == 0x80#8 && t.reg 1#5 == 0xC0#8 && t.sreg == 0x01#8) = true := by decide +kernel

/-- v2.5.7: `MULS R16,R17`. -/
theorem test_muls_again : gives (.muls 16#5 17#5) (start [(16, 0x80), (17, 0x80)] 0x00#8)
    (fun t => t.reg 1#5 == 0x40#8) = true := by decide +kernel

/-- v2.5.9: `MULSU R16,R17`. -/
theorem test_mulsu : gives (.mulsu 16#5 17#5) (start [(16, 0x80), (17, 0xFF)] 0x00#8)
    (fun t => t.reg 0#5 == 0x80#8 && t.reg 1#5 == 0x80#8 && t.sreg == 0x01#8) = true := by decide +kernel

/-- v2.5.10: `MULSU R16,R17`. -/
theorem test_mulsu_again : gives (.mulsu 16#5 17#5) (start [(16, 0xFF), (17, 0xFF)] 0x00#8)
    (fun t => t.reg 0#5 == 0x01#8 && t.reg 1#5 == 0xFF#8 && t.sreg == 0x01#8) = true := by decide +kernel

/-- v2.5.12: `FMUL R16,R17`. -/
theorem test_fmul : gives (.fmul 16#5 17#5) (start [(16, 0x40), (17, 0x40)] 0x00#8)
    (fun t => t.reg 1#5 == 0x20#8) = true := by decide +kernel

/-- v2.5.13: `FMUL R16,R17`. -/
theorem test_fmul_again : gives (.fmul 16#5 17#5) (start [(16, 0xFF), (17, 0xFF)] 0x00#8)
    (fun t => t.reg 0#5 == 0x02#8 && t.reg 1#5 == 0xFC#8 && t.sreg == 0x01#8) = true := by decide +kernel

/-- v2.5.15: `FMULS R16,R17`. -/
theorem test_fmuls : gives (.fmuls 16#5 17#5) (start [(16, 0xC0), (17, 0x40)] 0x00#8)
    (fun t => t.reg 1#5 == 0xE0#8 && t.sreg == 0x01#8) = true := by decide +kernel

/-- v2.5.16: `FMULS R16,R17`. -/
theorem test_fmuls_again : gives (.fmuls 16#5 17#5) (start [(16, 0x80), (17, 0x80)] 0x00#8)
    (fun t => t.reg 1#5 == 0x80#8) = true := by decide +kernel

/-- v2.5.18: `FMULSU R16,R17`. -/
theorem test_fmulsu : gives (.fmulsu 16#5 17#5) (start [(16, 0x80), (17, 0x80)] 0x00#8)
    (fun t => t.reg 1#5 == 0x80#8 && t.sreg == 0x01#8) = true := by decide +kernel

/-- v2.5.19: `FMULSU R16,R17`. -/
theorem test_fmulsu_again : gives (.fmulsu 16#5 17#5) (start [(16, 0x80), (17, 0x40)] 0x00#8)
    (fun t => t.reg 1#5 == 0xC0#8 && t.sreg == 0x01#8) = true := by decide +kernel

/-- v3.1.1: `MOV R0,R31`. -/
theorem test_mov : gives (.mov 0#5 31#5) (start [(0, 0x11), (31, 0xEE)] 0xFF#8)
    (fun t => t.reg 0#5 == 0xEE#8) = true := by decide +kernel

/-- v3.1.2: `MOV R9,R9`. -/
theorem test_mov_again : gives (.mov 9#5 9#5) (start [(9, 0x42)] 0x00#8)
    (fun t => t.sreg == 0x00#8) = true := by decide +kernel

/-- v3.1.3: `MOVW R24,R30`. -/
theorem test_movw : gives (.movw 24#5 30#5) (start [(30, 0x34), (31, 0x12), (24, 0x00), (25, 0x00)] 0x00#8)
    (fun t => t.reg 24#5 == 0x34#8 && t.reg 25#5 == 0x12#8) = true := by decide +kernel

/-- v3.1.4: `MOVW R0,R2`. -/
theorem test_movw_again : gives (.movw 0#5 2#5) (start [(2, 0xCD), (3, 0xAB), (0, 0x01), (1, 0x02)] 0x00#8)
    (fun t => t.reg 0#5 == 0xCD#8 && t.reg 1#5 == 0xAB#8) = true := by decide +kernel

/-- v3.1.6: `LDI R16,0x00`. -/
theorem test_ldi : gives (.ldi 16#5 0x0#8) (start [(16, 0xFF)] 0x00#8)
    (fun t => t.reg 16#5 == 0x00#8) = true := by decide +kernel

/-- v3.1.7: `LDI R31,0xA5`. -/
theorem test_ldi_again : gives (.ldi 31#5 0xA5#8) (start [(31, 0x00)] 0x00#8)
    (fun t => t.reg 31#5 == 0xA5#8) = true := by decide +kernel

/-- v3.2.1: `LDS R5,0x0100`. -/
theorem test_lds : gives (.lds 5#5 0x100#16) (start [(5, 0x00)] 0x00#8 [(0x0100, 0x77)])
    (fun t => t.reg 5#5 == 0x77#8 && t.pc == 0x2#22) = true := by decide +kernel

/-- v3.2.2: `LDS R5,0x001F`. -/
theorem test_lds_again : gives (.lds 5#5 0x1F#16) (start [(5, 0x00), (31, 0x99)] 0x00#8)
    (fun t => t.reg 5#5 == 0x99#8 && t.pc == 0x2#22) = true := by decide +kernel

/-- v3.3.1: `LD R4,X`. -/
theorem test_ldX : gives (.ldX 4#5) (start [(26, 0x23), (27, 0x01), (4, 0x00)] 0x00#8 [(0x0123, 0xAA)])
    (fun t => t.reg 4#5 == 0xAA#8) = true := by decide +kernel

/-- v3.3.10: `LD R4,X`. -/
theorem test_ldX_again : gives (.ldX 4#5) (start [(26, 0x10), (27, 0x00), (4, 0x00), (16, 0x5E)] 0x00#8)
    (fun t => t.reg 4#5 == 0x5E#8) = true := by decide +kernel

/-- v3.3.2: `LD R4,Y`. -/
theorem test_ldY : gives (.ldY 4#5) (start [(28, 0x23), (29, 0x01), (4, 0x00)] 0x00#8 [(0x0123, 0xAB)])
    (fun t => t.reg 4#5 == 0xAB#8) = true := by decide +kernel

/-- v3.3.3: `LD R4,Z`. -/
theorem test_ldZ : gives (.ldZ 4#5) (start [(30, 0x23), (31, 0x01), (4, 0x00)] 0x00#8 [(0x0123, 0xAC)])
    (fun t => t.reg 4#5 == 0xAC#8) = true := by decide +kernel

/-- v3.3.4: `LD R4,X+`. -/
theorem test_ldXInc : gives (.ldXInc 4#5) (start [(26, 0xFF), (27, 0x01), (4, 0x00)] 0x00#8 [(0x01FF, 0x11)])
    (fun t => t.reg 4#5 == 0x11#8 && t.reg 26#5 == 0x00#8) = true := by decide +kernel

/-- v3.3.11: `LD R4,X+`. -/
theorem test_ldXInc_again : gives (.ldXInc 4#5) (start [(26, 0x1A), (27, 0x00), (4, 0x00)] 0x00#8)
    (fun t => t.reg 4#5 == 0x1A#8 && t.reg 26#5 == 0x1B#8) = true := by decide +kernel

/-- v3.3.5: `LD R4,Y+`. -/
theorem test_ldYInc : gives (.ldYInc 4#5) (start [(28, 0x00), (29, 0x02), (4, 0x00)] 0x00#8 [(0x0200, 0x22)])
    (fun t => t.reg 4#5 == 0x22#8 && t.reg 28#5 == 0x01#8) = true := by decide +kernel

/-- v3.3.6: `LD R4,Z+`. -/
theorem test_ldZInc : gives (.ldZInc 4#5) (start [(30, 0xFF), (31, 0xFF), (4, 0x00)] 0x00#8 [(0xFFFF, 0x33)])
    (fun t => t.reg 4#5 == 0x33#8 && t.reg 30#5 == 0x00#8) = true := by decide +kernel

/-- v3.3.7: `LD R4,-X`. -/
theorem test_ldXDec : gives (.ldXDec 4#5) (start [(26, 0x00), (27, 0x02), (4, 0x00)] 0x00#8 [(0x01FF, 0x44)])
    (fun t => t.reg 4#5 == 0x44#8 && t.reg 26#5 == 0xFF#8) = true := by decide +kernel

/-- v3.3.8: `LD R4,-Y`. -/
theorem test_ldYDec : gives (.ldYDec 4#5) (start [(28, 0x01), (29, 0x01), (4, 0x00)] 0x00#8 [(0x0100, 0x55)])
    (fun t => t.reg 4#5 == 0x55#8 && t.reg 28#5 == 0x00#8) = true := by decide +kernel

/-- v3.3.9: `LD R4,-Z`. -/
theorem test_ldZDec : gives (.ldZDec 4#5) (start [(30, 0x00), (31, 0x00), (4, 0x00)] 0x00#8 [(0xFFFF, 0x66)])
    (fun t => t.reg 4#5 == 0x66#8 && t.reg 30#5 == 0xFF#8) = true := by decide +kernel

/-- v3.3.13: `LDD R4,Y+63`. -/
theorem test_lddY : gives (.lddY 4#5 63#6) (start [(28, 0x00), (29, 0x03), (4, 0x00)] 0x00#8 [(0x033F, 0x02)])
    (fun t => t.reg 4#5 == 0x02#8) = true := by decide +kernel

/-- v3.3.16: `LDD R4,Y+1`. -/
theorem test_lddY_again : gives (.lddY 4#5 1#6) (start [(28, 0xFF), (29, 0xFF), (4, 0x00), (0, 0x9D)] 0x00#8)
    (fun t => t.reg 4#5 == 0x9D#8) = true := by decide +kernel

/-- v3.3.14: `LDD R4,Z+32`. -/
theorem test_lddZ : gives (.lddZ 4#5 32#6) (start [(30, 0x00), (31, 0x03), (4, 0x00)] 0x00#8 [(0x0320, 0x03)])
    (fun t => t.reg 4#5 == 0x03#8) = true := by decide +kernel

/-- v3.3.15: `LDD R4,Z+8`. -/
theorem test_lddZ_again : gives (.lddZ 4#5 8#6) (start [(30, 0x00), (31, 0x03), (4, 0x00)] 0x00#8 [(0x0308, 0x04)])
    (fun t => t.reg 4#5 == 0x04#8) = true := by decide +kernel

/-- v3.2.5: `STS 0x0200,R6`. -/
theorem test_sts : gives (.sts 0x200#16 6#5) (start [(6, 0x3C)] 0x00#8 [(0x0200, 0x00)])
    (fun t => t.ramByte 0x0200#16 == some 0x3C#8 && t.pc == 0x2#22) = true := by decide +kernel

/-- v3.2.6: `STS 0x005F,R6`. -/
theorem test_sts_again : gives (.sts 0x5F#16 6#5) (start [(6, 0x81)] 0x00#8)
    (fun t => t.sreg == 0x81#8 && t.pc == 0x2#22) = true := by decide +kernel

/-- v3.4.1: `ST X,R4`. -/
theorem test_stX : gives (.stX 4#5) (start [(26, 0x23), (27, 0x01), (4, 0xAA)] 0x00#8 [(0x0123, 0x00)])
    (fun t => t.ramByte 0x0123#16 == some 0xAA#8) = true := by decide +kernel

/-- v3.4.11: `ST X,R5`. -/
theorem test_stX_again : gives (.stX 5#5) (start [(26, 0x5F), (27, 0x00), (5, 0x42)] 0x00#8)
    (fun t => t.sreg == 0x42#8) = true := by decide +kernel

/-- v3.4.2: `ST Y,R4`. -/
theorem test_stY : gives (.stY 4#5) (start [(28, 0x23), (29, 0x01), (4, 0xAB)] 0x00#8 [(0x0123, 0x00)])
    (fun t => t.ramByte 0x0123#16 == some 0xAB#8) = true := by decide +kernel

/-- v3.4.3: `ST Z,R4`. -/
theorem test_stZ : gives (.stZ 4#5) (start [(30, 0x23), (31, 0x01), (4, 0xAC)] 0x00#8 [(0x0123, 0x00)])
    (fun t => t.ramByte 0x0123#16 == some 0xAC#8) = true := by decide +kernel

/-- v3.4.4: `ST X+,R4`. -/
theorem test_stXInc : gives (.stXInc 4#5) (start [(26, 0xFF), (27, 0x02), (4, 0x11)] 0x00#8 [(0x02FF, 0x00)])
    (fun t => t.reg 26#5 == 0x00#8 && t.reg 27#5 == 0x03#8) = true := by decide +kernel

/-- v3.4.10: `ST X+,R5`. -/
theorem test_stXInc_again : gives (.stXInc 5#5) (start [(26, 0x1A), (27, 0x00), (5, 0x80)] 0x00#8)
    (fun t => t.reg 26#5 == 0x1B#8) = true := by decide +kernel

/-- v3.4.5: `ST Y+,R4`. -/
theorem test_stYInc : gives (.stYInc 4#5) (start [(28, 0xFF), (29, 0xFF), (4, 0x22)] 0x00#8 [(0xFFFF, 0x00)])
    (fun t => t.reg 28#5 == 0x00#8 && t.reg 29#5 == 0x00#8) = true := by decide +kernel

/-- v3.4.6: `ST Z+,R4`. -/
theorem test_stZInc : gives (.stZInc 4#5) (start [(30, 0x00), (31, 0x03), (4, 0x33)] 0x00#8 [(0x0300, 0x00)])
    (fun t => t.reg 30#5 == 0x01#8 && t.ramByte 0x0300#16 == some 0x33#8) = true := by decide +kernel

/-- v3.4.7: `ST -X,R4`. -/
theorem test_stXDec : gives (.stXDec 4#5) (start [(26, 0x00), (27, 0x03), (4, 0x44)] 0x00#8 [(0x02FF, 0x00)])
    (fun t => t.reg 26#5 == 0xFF#8 && t.reg 27#5 == 0x02#8) = true := by decide +kernel

/-- v3.4.8: `ST -Y,R4`. -/
theorem test_stYDec : gives (.stYDec 4#5) (start [(28, 0x00), (29, 0x00), (4, 0x55)] 0x00#8 [(0xFFFF, 0x00)])
    (fun t => t.reg 28#5 == 0xFF#8 && t.reg 29#5 == 0xFF#8) = true := by decide +kernel

/-- v3.4.9: `ST -Z,R4`. -/
theorem test_stZDec : gives (.stZDec 4#5) (start [(30, 0x01), (31, 0x01), (4, 0x66)] 0x00#8 [(0x0100, 0x00)])
    (fun t => t.reg 30#5 == 0x00#8 && t.ramByte 0x0100#16 == some 0x66#8) = true := by decide +kernel

/-- v3.4.12: `STD Y+63,R4`. -/
theorem test_stdY : gives (.stdY 63#6 4#5) (start [(28, 0x00), (29, 0x04), (4, 0x77)] 0x00#8 [(0x043F, 0x00)])
    (fun t => t.ramByte 0x043F#16 == some 0x77#8) = true := by decide +kernel

/-- v3.4.13: `STD Z+1,R4`. -/
theorem test_stdZ : gives (.stdZ 1#6 4#5) (start [(30, 0x00), (31, 0x04), (4, 0x88)] 0x00#8 [(0x0401, 0x00)])
    (fun t => t.ramByte 0x0401#16 == some 0x88#8) = true := by decide +kernel

/-- v3.4.14: `STD Z+16,R4`. -/
theorem test_stdZ_again : gives (.stdZ 16#6 4#5) (start [(30, 0x00), (31, 0x04), (4, 0x99)] 0x00#8 [(0x0410, 0x00)])
    (fun t => t.ramByte 0x0410#16 == some 0x99#8) = true := by decide +kernel

/-- v3.5.1: `LPM`. -/
theorem test_lpm : gives (.lpm) (start [(30, 0x00), (31, 0x01), (0, 0x00)] 0x00#8 [] [(0x80, 0x3412), (0x81, 0x7856)])
    (fun t => t.reg 0#5 == 0x12#8) = true := by decide +kernel

/-- v3.5.2: `LPM`. -/
theorem test_lpm_again : gives (.lpm) (start [(30, 0x01), (31, 0x01), (0, 0x00)] 0x00#8 [] [(0x80, 0x3412), (0x81, 0x7856)])
    (fun t => t.reg 0#5 == 0x34#8) = true := by decide +kernel

/-- v3.5.3: `LPM R16,Z`. -/
theorem test_lpmZ : gives (.lpmZ 16#5) (start [(30, 0x02), (31, 0x01), (16, 0x00)] 0x00#8 [] [(0x80, 0x3412), (0x81, 0x7856)])
    (fun t => t.reg 16#5 == 0x56#8) = true := by decide +kernel

/-- v3.5.6: `LPM R0,Z`. -/
theorem test_lpmZ_again : gives (.lpmZ 0#5) (start [(30, 0x00), (31, 0x01), (0, 0x00)] 0x00#8 [] [(0x80, 0x3412), (0x81, 0x7856)])
    (fun t => t.reg 0#5 == 0x12#8) = true := by decide +kernel

/-- v3.5.4: `LPM R16,Z+`. -/
theorem test_lpmZInc : gives (.lpmZInc 16#5) (start [(30, 0x03), (31, 0x01), (16, 0x00)] 0x00#8 [] [(0x80, 0x3412), (0x81, 0x7856)])
    (fun t => t.reg 16#5 == 0x78#8 && t.reg 30#5 == 0x04#8) = true := by decide +kernel

/-- v3.5.5: `LPM R16,Z+`. -/
theorem test_lpmZInc_again : gives (.lpmZInc 16#5) (start [(30, 0xFF), (31, 0xFF), (16, 0x00)] 0x00#8 [] [(0x7FFF, 0xA1B2)])
    (fun t => t.reg 16#5 == 0xA1#8 && t.reg 30#5 == 0x00#8) = true := by decide +kernel

/-- v3.5.9: `ELPM`. -/
theorem test_elpm : gives (.elpm) { start [(30, 0x00), (31, 0x01), (0, 0x00)] 0x00#8 [] [(0x80, 0x3412), (0x18080, 0xBEEF)] with rampz := 0x03#8 }
    (fun t => t.reg 0#5 == 0xEF#8) = true := by decide +kernel

/-- v3.5.10: `ELPM R17,Z`. -/
theorem test_elpmZ : gives (.elpmZ 17#5) { start [(30, 0x01), (31, 0x01), (17, 0x00)] 0x00#8 [] [(0x80, 0x3412), (0x18080, 0xBEEF)] with rampz := 0x03#8 }
    (fun t => t.reg 17#5 == 0xBE#8) = true := by decide +kernel

/-- v3.5.11: `ELPM R17,Z`. -/
theorem test_elpmZ_again : gives (.elpmZ 17#5) { start [(30, 0x01), (31, 0x01), (17, 0x00)] 0x00#8 [] [(0x80, 0x3412), (0x18080, 0xBEEF)] with rampz := 0x00#8 }
    (fun t => t.reg 17#5 == 0x34#8) = true := by decide +kernel

/-- v3.5.12: `ELPM R17,Z+`. -/
theorem test_elpmZInc : gives (.elpmZInc 17#5) { start [(30, 0x00), (31, 0x01), (17, 0x00)] 0x00#8 [] [(0x80, 0x3412), (0x18080, 0xBEEF)] with rampz := 0x03#8 }
    (fun t => t.reg 17#5 == 0xEF#8 && t.reg 30#5 == 0x01#8) = true := by decide +kernel

/-- v3.6.1: `IN R16,0x3F`. -/
theorem test_ioIn : gives (.ioIn 16#5 63#6) (start [(16, 0x00)] 0xA5#8)
    (fun t => t.reg 16#5 == 0xA5#8) = true := by decide +kernel

/-- v3.6.2: `IN R16,0x3D`. -/
theorem test_ioIn_again : gives (.ioIn 16#5 61#6) { start [(16, 0x00)] 0x00#8 with sp := 0x21FE#16 }
    (fun t => t.reg 16#5 == 0xFE#8) = true := by decide +kernel

/-- v3.6.7: `OUT 0x3F,R16`. -/
theorem test_ioOut : gives (.ioOut 63#6 16#5) (start [(16, 0xFF)] 0x00#8)
    (fun t => t.sreg == 0xFF#8) = true := by decide +kernel

/-- v3.6.8: `OUT 0x3D,R16`. -/
theorem test_ioOut_again : gives (.ioOut 61#6 16#5) { start [(16, 0xFF)] 0x00#8 with sp := 0x0000#16 }
    (fun t => t.sp == 0x00FF#16) = true := by decide +kernel

/-- v3.6.13: `PUSH R16`. -/
theorem test_push : gives (.push 16#5) { start [(16, 0xAB)] 0x00#8 [(0x21FF, 0x00)] with sp := 0x21FF#16 }
    (fun t => t.ramByte 0x21FF#16 == some 0xAB#8 && t.sp == 0x21FE#16) = true := by decide +kernel

/-- v3.6.14: `PUSH R16`. -/
theorem test_push_again : gives (.push 16#5) { start [(16, 0xCD), (0, 0x00)] 0x00#8 with sp := 0x0000#16 }
    (fun t => t.reg 0#5 == 0xCD#8 && t.sp == 0xFFFF#16) = true := by decide +kernel

/-- v3.6.15: `POP R17`. -/
theorem test_pop : gives (.pop 17#5) { start [(17, 0x00)] 0x00#8 [(0x21FF, 0xAB)] with sp := 0x21FE#16 }
    (fun t => t.reg 17#5 == 0xAB#8 && t.sp == 0x21FF#16) = true := by decide +kernel

/-- v3.6.16: `POP R17`. -/
theorem test_pop_again : gives (.pop 17#5) { start [(17, 0x00), (0, 0x3C)] 0x00#8 with sp := 0xFFFF#16 }
    (fun t => t.reg 17#5 == 0x3C#8 && t.sp == 0x0000#16) = true := by decide +kernel

/-- v4.1.1: `NOP`. -/
theorem test_nop : gives (.nop) { start [] 0xFF#8 with pc := 0x5#22 }
    (fun t => t.pc == 0x6#22) = true := by decide +kernel

/-- v4.1.2: `WDR`. -/
theorem test_wdr : gives (.wdr) { start [] 0x80#8 with pc := 0x5#22 }
    (fun t => t.pc == 0x6#22) = true := by decide +kernel

/-- v5.1.4: `RJMP -2048`. -/
theorem test_rjmp : gives (.rjmp 0x800#12) { start [] 0x00#8 with pc := 0x1000#22 }
    (fun t => t.sreg == 0x00#8 && t.pc == 0x801#22) = true := by decide +kernel

/-- v5.1.6: `RJMP -2`. -/
theorem test_rjmp_again : gives (.rjmp 0xFFE#12) { start [] 0x00#8 with pc := 0x0#22 }
    (fun t => t.sreg == 0x00#8 && t.pc == 0x3FFFFF#22) = true := by decide +kernel

/-- v5.1.8: `IJMP`. -/
theorem test_ijmp : gives (.ijmp) { start [(30, 0x34), (31, 0x12)] 0x00#8 with pc := 0x20000#22, eind := 0x3F#8 }
    (fun t => t.sreg == 0x00#8 && t.pc == 0x1234#22) = true := by decide +kernel

/-- v5.1.9: `EIJMP`. -/
theorem test_eijmp : gives (.eijmp) { start [(30, 0x34), (31, 0x12)] 0x00#8 with pc := 0x10#22, eind := 0x01#8 }
    (fun t => t.sreg == 0x00#8 && t.pc == 0x11234#22) = true := by decide +kernel

/-- v5.1.10: `EIJMP`. -/
theorem test_eijmp_again : gives (.eijmp) { start [(30, 0xFF), (31, 0xFF)] 0x00#8 with pc := 0x10#22, eind := 0xFF#8 }
    (fun t => t.sreg == 0x00#8 && t.pc == 0x3FFFFF#22) = true := by decide +kernel

/-- v5.1.11: `JMP 0x012345`. -/
theorem test_jmp : gives (.jmp 0x12345#22) { start [] 0x00#8 with pc := 0x10#22 }
    (fun t => t.sreg == 0x00#8 && t.pc == 0x12345#22) = true := by decide +kernel

/-- v5.1.13: `JMP 0x000000`. -/
theorem test_jmp_again : gives (.jmp 0x0#22) { start [] 0x00#8 with pc := 0x10#22 }
    (fun t => t.sreg == 0x00#8 && t.pc == 0x0#22) = true := by decide +kernel

/-- v5.2.1: `RCALL +16`. -/
theorem test_rcall : gives (.rcall 0x10#12) { start [] 0x00#8 [(0x21FD, 0x00), (0x21FE, 0x00), (0x21FF, 0x00)] with pc := 0x12345#22, sp := 0x21FF#16 }
    (fun t => t.ramByte 0x21FD#16 == some 0x01#8 && t.ramByte 0x21FE#16 == some 0x23#8 && t.pc == 0x12356#22) = true := by decide +kernel

/-- v5.2.2: `RCALL -1`. -/
theorem test_rcall_again : gives (.rcall 0xFFF#12) { start [] 0x00#8 [(0x21FD, 0x00), (0x21FE, 0x00), (0x21FF, 0x00)] with pc := 0x100#22, sp := 0x21FF#16 }
    (fun t => t.ramByte 0x21FE#16 == some 0x01#8 && t.ramByte 0x21FF#16 == some 0x01#8 && t.pc == 0x100#22) = true := by decide +kernel

/-- v5.2.3: `ICALL`. -/
theorem test_icall : gives (.icall) { start [(30, 0x00), (31, 0x03)] 0x00#8 [(0x21FD, 0x00), (0x21FE, 0x00), (0x21FF, 0x00)] with pc := 0x200#22, sp := 0x21FF#16, eind := 0x02#8 }
    (fun t => t.ramByte 0x21FE#16 == some 0x02#8 && t.ramByte 0x21FF#16 == some 0x01#8 && t.pc == 0x300#22) = true := by decide +kernel

/-- v5.2.4: `EICALL`. -/
theorem test_eicall : gives (.eicall) { start [(30, 0x00), (31, 0x03)] 0x00#8 [(0x21FD, 0x00), (0x21FE, 0x00), (0x21FF, 0x00)] with pc := 0x200#22, sp := 0x21FF#16, eind := 0x02#8 }
    (fun t => t.ramByte 0x21FE#16 == some 0x02#8 && t.ramByte 0x21FF#16 == some 0x01#8 && t.pc == 0x20300#22) = true := by decide +kernel

/-- v5.2.5: `CALL 0x3ABCDE`. -/
theorem test_call : gives (.call 0x3ABCDE#22) { start [] 0x00#8 [(0x21FD, 0x00), (0x21FE, 0x00), (0x21FF, 0x00)] with pc := 0xFFFFF#22, sp := 0x21FF#16 }
    (fun t => t.ramByte 0x21FD#16 == some 0x10#8 && t.ramByte 0x21FF#16 == some 0x01#8 && t.pc == 0x3ABCDE#22) = true := by decide +kernel

/-- v5.2.6: `CALL 0x000400`. -/
theorem test_call_again : gives (.call 0x400#22) { start [(1, 0xEE), (0, 0xEE)] 0x00#8 [(0xFFFF, 0x00)] with pc := 0x10#22, sp := 0x0001#16 }
    (fun t => t.reg 0#5 == 0x00#8 && t.reg 1#5 == 0x12#8 && t.pc == 0x400#22) = true := by decide +kernel

/-- v5.2.7: `RET`. -/
theorem test_ret : gives (.ret) { start [] 0x00#8 [(0x21FD, 0x01), (0x21FE, 0x23), (0x21FF, 0x46)] with pc := 0x400#22, sp := 0x21FC#16 }
    (fun t => t.sp == 0x21FF#16 && t.pc == 0x12346#22) = true := by decide +kernel

/-- v5.2.8: `RET`. -/
theorem test_ret_again : gives (.ret) { start [] 0x00#8 [(0x21FD, 0xFF), (0x21FE, 0xFF), (0x21FF, 0xFF)] with pc := 0x400#22, sp := 0x21FC#16 }
    (fun t => t.sp == 0x21FF#16 && t.pc == 0x3FFFFF#22) = true := by decide +kernel

/-- v5.2.9: `RETI`. -/
theorem test_reti : gives (.reti) { start [] 0x03#8 [(0x21FD, 0x00), (0x21FE, 0x01), (0x21FF, 0x02)] with pc := 0x400#22, sp := 0x21FC#16 }
    (fun t => t.sp == 0x21FF#16 && t.sreg == 0x83#8 && t.pc == 0x102#22) = true := by decide +kernel

/-- v5.2.10: `RETI`. -/
theorem test_reti_again : gives (.reti) { start [] 0x80#8 [(0x21FD, 0x00), (0x21FE, 0x01), (0x21FF, 0x02)] with pc := 0x400#22, sp := 0x21FC#16 }
    (fun t => t.sp == 0x21FF#16 && t.pc == 0x102#22) = true := by decide +kernel

/-- v5.3.1: `CPSE R1,R2`. -/
theorem test_cpse : gives (.cpse 1#5 2#5) { start [(1, 0x05), (2, 0x06)] 0xFF#8 [] [(0x101, 0x0000)] with pc := 0x100#22 }
    (fun t => t.pc == 0x101#22) = true := by decide +kernel

/-- v5.3.3: `CPSE R1,R2`. -/
theorem test_cpse_again : gives (.cpse 1#5 2#5) { start [(1, 0x05), (2, 0x05)] 0x00#8 [] [(0x101, 0x940C), (0x102, 0x0000)] with pc := 0x100#22 }
    (fun t => t.pc == 0x103#22) = true := by decide +kernel

/-- v5.4.1: `CP R16,R17`. -/
theorem test_cp : gives (.cp 16#5 17#5) (start [(16, 0x10), (17, 0x20)] 0x00#8)
    (fun t => t.sreg == 0x15#8) = true := by decide +kernel

/-- v5.4.2: `CP R16,R17`. -/
theorem test_cp_again : gives (.cp 16#5 17#5) (start [(16, 0x20), (17, 0x20)] 0x00#8)
    (fun t => t.sreg == 0x02#8) = true := by decide +kernel

/-- v5.4.5: `CPC R17,R19`. -/
theorem test_cpc : gives (.cpc 17#5 19#5) (start [(17, 0x12), (19, 0x12)] 0x02#8)
    (fun t => t.sreg == 0x02#8) = true := by decide +kernel

/-- v5.4.6: `CPC R17,R19`. -/
theorem test_cpc_again : gives (.cpc 17#5 19#5) (start [(17, 0x12), (19, 0x12)] 0x00#8)
    (fun t => t.sreg == 0x00#8) = true := by decide +kernel

/-- v5.4.8: `CPI R16,0x80`. -/
theorem test_cpi : gives (.cpi 16#5 0x80#8) (start [(16, 0x80)] 0x00#8)
    (fun t => t.sreg == 0x02#8) = true := by decide +kernel

/-- v5.4.9: `CPI R31,0x00`. -/
theorem test_cpi_again : gives (.cpi 31#5 0x0#8) (start [(31, 0x00)] 0xC1#8)
    (fun t => t.sreg == 0xC2#8) = true := by decide +kernel

/-- v5.3.9: `SBRC R7,7`. -/
theorem test_sbrc : gives (.sbrc 7#5 7#3) { start [(7, 0x7F)] 0x00#8 [] [(0x101, 0x0000)] with pc := 0x100#22 }
    (fun t => t.pc == 0x102#22) = true := by decide +kernel

/-- v5.3.11: `SBRC R7,0`. -/
theorem test_sbrc_again : gives (.sbrc 7#5 0#3) { start [(7, 0xFE)] 0x00#8 [] [(0x101, 0x940C), (0x102, 0x0000)] with pc := 0x100#22 }
    (fun t => t.pc == 0x103#22) = true := by decide +kernel

/-- v5.3.14: `SBRS R31,7`. -/
theorem test_sbrs : gives (.sbrs 31#5 7#3) { start [(31, 0x80)] 0x00#8 [] [(0x101, 0x9100), (0x102, 0x0100)] with pc := 0x100#22 }
    (fun t => t.pc == 0x103#22) = true := by decide +kernel

/-- v5.3.19: `SBRS R7,0`. -/
theorem test_sbrs_again : gives (.sbrs 7#5 0#3) { start [(7, 0x01)] 0x00#8 [] [(0x3FFFFF, 0x0000)] with pc := 0x3FFFFE#22 }
    (fun t => t.pc == 0x0#22) = true := by decide +kernel

/-- v5.5.1: `BRBS 0,+10 (BRCS/BRLO +10)`. -/
theorem test_brbs : gives (.brbs 0#3 10#7) { start [] 0x01#8 with pc := 0x200#22 }
    (fun t => t.pc == 0x20B#22) = true := by decide +kernel

/-- v5.5.2: `BRBS 0,+10 (BRCS/BRLO +10)`. -/
theorem test_brbs_again : gives (.brbs 0#3 10#7) { start [] 0xFE#8 with pc := 0x200#22 }
    (fun t => t.pc == 0x201#22) = true := by decide +kernel

/-- v5.5.7: `BRBC 1,+10 (BRNE +10)`. -/
theorem test_brbc : gives (.brbc 1#3 10#7) { start [] 0x02#8 with pc := 0x200#22 }
    (fun t => t.pc == 0x201#22) = true := by decide +kernel

/-- v5.5.8: `BRBC 1,+10 (BRNE +10)`. -/
theorem test_brbc_again : gives (.brbc 1#3 10#7) { start [] 0xFD#8 with pc := 0x200#22 }
    (fun t => t.pc == 0x20B#22) = true := by decide +kernel

/-- v6.2.1: `LSL R20`. -/
theorem test_lsl : gives (.lsl 20#5) (start [(20, 0x81)] 0x00#8)
    (fun t => t.reg 20#5 == 0x02#8 && t.sreg == 0x19#8) = true := by decide +kernel

/-- v6.2.2: `LSL R20`. -/
theorem test_lsl_again : gives (.lsl 20#5) (start [(20, 0x40)] 0x00#8)
    (fun t => t.reg 20#5 == 0x80#8 && t.sreg == 0x0C#8) = true := by decide +kernel

/-- v6.2.5: `LSR R21`. -/
theorem test_lsr : gives (.lsr 21#5) (start [(21, 0x01)] 0x00#8)
    (fun t => t.reg 21#5 == 0x00#8 && t.sreg == 0x1B#8) = true := by decide +kernel

/-- v6.2.6: `LSR R21`. -/
theorem test_lsr_again : gives (.lsr 21#5) (start [(21, 0x80)] 0x21#8)
    (fun t => t.reg 21#5 == 0x40#8 && t.sreg == 0x20#8) = true := by decide +kernel

/-- v6.2.8: `ROL R22`. -/
theorem test_rol : gives (.rol 22#5) (start [(22, 0x80)] 0x01#8)
    (fun t => t.reg 22#5 == 0x01#8 && t.sreg == 0x19#8) = true := by decide +kernel

/-- v6.2.9: `ROL R22`. -/
theorem test_rol_again : gives (.rol 22#5) (start [(22, 0x55)] 0x00#8)
    (fun t => t.reg 22#5 == 0xAA#8 && t.sreg == 0x0C#8) = true := by decide +kernel

/-- v6.2.11: `ROR R21`. -/
theorem test_ror : gives (.ror 21#5) (start [(21, 0x01)] 0x01#8)
    (fun t => t.reg 21#5 == 0x80#8 && t.sreg == 0x15#8) = true := by decide +kernel

/-- v6.2.12: `ROR R21`. -/
theorem test_ror_again : gives (.ror 21#5) (start [(21, 0x00)] 0x01#8)
    (fun t => t.reg 21#5 == 0x80#8 && t.sreg == 0x0C#8) = true := by decide +kernel

/-- v6.2.14: `ASR R21`. -/
theorem test_asr : gives (.asr 21#5) (start [(21, 0x80)] 0x00#8)
    (fun t => t.reg 21#5 == 0xC0#8 && t.sreg == 0x0C#8) = true := by decide +kernel

/-- v6.2.15: `ASR R21`. -/
theorem test_asr_again : gives (.asr 21#5) (start [(21, 0xFF)] 0x00#8)
    (fun t => t.sreg == 0x15#8) = true := by decide +kernel

/-- v6.2.18: `SWAP R22`. -/
theorem test_swap : gives (.swap 22#5) (start [(22, 0xA5)] 0xFF#8)
    (fun t => t.reg 22#5 == 0x5A#8 && t.sreg == 0xFF#8) = true := by decide +kernel

/-- v6.2.19: `SWAP R22`. -/
theorem test_swap_again : gives (.swap 22#5) (start [(22, 0xF0)] 0x00#8)
    (fun t => t.reg 22#5 == 0x0F#8 && t.sreg == 0x00#8) = true := by decide +kernel

/-- v6.3.1: `BSET 0 (SEC)`. -/
theorem test_bset : gives (.bset 0#3) (start [] 0x00#8)
    (fun t => t.sreg == 0x01#8) = true := by decide +kernel

/-- v6.3.8: `BSET 7 (SEI)`. -/
theorem test_bset_again : gives (.bset 7#3) (start [] 0x00#8)
    (fun t => t.sreg == 0x80#8) = true := by decide +kernel

/-- v6.3.9: `BCLR 0 (CLC)`. -/
theorem test_bclr : gives (.bclr 0#3) (start [] 0xFF#8)
    (fun t => t.sreg == 0xFE#8) = true := by decide +kernel

/-- v6.3.16: `BCLR 7 (CLI)`. -/
theorem test_bclr_again : gives (.bclr 7#3) (start [] 0xFF#8)
    (fun t => t.sreg == 0x7F#8) = true := by decide +kernel

/-- v6.4.1: `BST R23,5`. -/
theorem test_bst : gives (.bst 23#5 5#3) (start [(23, 0x20)] 0x00#8)
    (fun t => t.sreg == 0x40#8) = true := by decide +kernel

/-- v6.4.2: `BST R23,5`. -/
theorem test_bst_again : gives (.bst 23#5 5#3) (start [(23, 0xDF)] 0xFF#8)
    (fun t => t.sreg == 0xBF#8) = true := by decide +kernel

/-- v6.4.5: `BLD R23,0`. -/
theorem test_bld : gives (.bld 23#5 0#3) (start [(23, 0x00)] 0x40#8)
    (fun t => t.reg 23#5 == 0x01#8 && t.sreg == 0x40#8) = true := by decide +kernel

/-- v6.4.6: `BLD R23,7`. -/
theorem test_bld_again : gives (.bld 23#5 7#3) (start [(23, 0xFF)] 0x00#8)
    (fun t => t.reg 23#5 == 0x7F#8 && t.sreg == 0x00#8) = true := by decide +kernel

/-- v5.5.1 to v5.5.32 for the eighteen branch names: their flag, the SREG that takes the branch, the one that does not. -/
theorem test_branch_names :
    [(Instr.brcs 10#7, 0x01#8, 0xFE#8), (.brlo 10#7, 0x01#8, 0xFE#8), (.brcc 10#7, 0xFE#8, 0x01#8),
     (.brsh 10#7, 0xFE#8, 0x01#8), (.breq 10#7, 0x02#8, 0xFD#8), (.brne 10#7, 0xFD#8, 0x02#8),
     (.brmi 10#7, 0x04#8, 0xFB#8), (.brpl 10#7, 0xFB#8, 0x04#8), (.brvs 10#7, 0x08#8, 0xF7#8),
     (.brvc 10#7, 0xF7#8, 0x08#8), (.brlt 10#7, 0x10#8, 0xEF#8), (.brge 10#7, 0xEF#8, 0x10#8),
     (.brhs 10#7, 0x20#8, 0xDF#8), (.brhc 10#7, 0xDF#8, 0x20#8), (.brts 10#7, 0x40#8, 0xBF#8),
     (.brtc 10#7, 0xBF#8, 0x40#8), (.brie 10#7, 0x80#8, 0x7F#8), (.brid 10#7, 0x7F#8, 0x80#8)].all (fun p =>
      gives p.1 { start [] p.2.1 with pc := 0x200#22 } (fun t => t.pc == 0x20B#22) &&
      gives p.1 { start [] p.2.2 with pc := 0x200#22 } (fun t => t.pc == 0x201#22)) = true := by decide +kernel

/-- v6.3.1 to v6.3.16 for the sixteen flag names: from SREG 0x00 for a setting, from 0xFF for a clearing one. -/
theorem test_flag_names :
    [(Instr.sec, 0x00#8, 0x01#8), (.sez, 0x00#8, 0x02#8), (.sen, 0x00#8, 0x04#8), (.sev, 0x00#8, 0x08#8),
     (.ses, 0x00#8, 0x10#8), (.seh, 0x00#8, 0x20#8), (.set, 0x00#8, 0x40#8), (.sei, 0x00#8, 0x80#8),
     (.clc, 0xFF#8, 0xFE#8), (.clz, 0xFF#8, 0xFD#8), (.cln, 0xFF#8, 0xFB#8), (.clv, 0xFF#8, 0xF7#8),
     (.cls, 0xFF#8, 0xEF#8), (.clh, 0xFF#8, 0xDF#8), (.clt, 0xFF#8, 0xBF#8), (.cli, 0xFF#8, 0x7F#8)].all (fun p =>
      gives p.1 (start [] p.2.1) (fun t => t.sreg == p.2.2 && t.pc == 1#22)) = true := by decide +kernel

/-- v3.3.17 to v3.3.20, v3.4.15 to v3.4.18, v3.5.7, v3.5.8, v3.5.14: note 7. -/
theorem test_pointer_as_operand :
    [Instr.ldXInc 26#5, .ldX 27#5, .lddY 29#5 2#6, .ldZ 30#5, .stYDec 29#5, .stXInc 26#5, .stdZ 5#6 31#5, .stZ 30#5,
     .lpmZ 30#5, .lpmZInc 31#5, .elpmZ 30#5].all
      (fun i => exec i (start [] 0x00#8) matches .fault .pointerAsOperand) = true := by decide +kernel

/-- v3.5.13: ELPM R17,Z+ at Z = 0xFFFF. -/
theorem test_elpm_carry :
    exec (.elpmZInc 17#5) (start [(30, 0xFF), (31, 0xFF)] 0x00#8) matches .refused .elpmCarry := by decide +kernel

/-- v3.5.15: SPM. -/
theorem test_spm : exec .spm (start [(0, 1), (1, 2)] 0x00#8) matches .refused .spmRefused := by decide +kernel

/-- v4.1.3 and the remark on it: BREAK under both settings. -/
theorem test_break :
    (exec .brk { State.reset with cfg := { Config.generic with breakBehaviour := .refuse } } matches .refused .breakRefused) ∧
      gives .brk { State.reset with pc := 5#22 } (fun t => t.pc == 6#22) = true := by decide +kernel

/-- v4.1.4 and the remark on it, R212: SLEEP under its settings. -/
theorem test_sleep :
    (exec .sleep { State.reset with cfg := { Config.generic with sleepBehaviour := .refuse } } matches
      .refused .sleepRefused) ∧
      gives .sleep { State.reset with pc := 5#22 } (fun t => t.pc == 6#22 && t.sleeping) = true := by decide +kernel

/-- v3.6.12: OUT to a platform location is an event. -/
theorem test_out_platform :
    gives (.ioOut 0x05#6 16#5) (start [(16, 0x5A)] 0x00#8) (fun t => t.events == [.ioWrite 0x25#16 0x5A#8]) = true := by
  decide +kernel

/-- v6.1.1, v6.1.4: SBI and CBI write back the byte they drew, whatever it is, with one bit set or cleared. -/
theorem test_sbi_cbi :
    exec (.sbi 0x05#5 3#3) State.reset = .next (({ State.reset with draws := 1, events :=
      [.ioRead 0x25#16 (Config.freeByte 0), .ioWrite 0x25#16 (Config.freeByte 0 ||| 0x08#8)] } : State).advance 1#22) ∧
    exec (.cbi 0x05#5 7#3) State.reset = .next (({ State.reset with draws := 1, events :=
      [.ioRead 0x25#16 (Config.freeByte 0), .ioWrite 0x25#16 (Config.freeByte 0 &&& 0x7F#8)] } : State).advance 1#22) :=
  ⟨rfl, rfl⟩

/-- v5.3.15 to v5.3.18: SBIC and SBIS draw the byte once and skip by its bit. -/
theorem test_sbic_sbis :
    exec (.sbic 0x05#5 7#3) State.reset = skip (!(Config.freeByte 0).getLsbD 7) (readPlatform State.reset 0x25#16).2 ∧
    exec (.sbis 0x1F#5 0#3) State.reset = skip ((Config.freeByte 0).getLsbD 0) (readPlatform State.reset 0x3F#16).2 :=
  ⟨rfl, rfl⟩

/-! ### Bounds, interrupts, the step -/

/-- The parameters of 95_test_vectors.md section 7.2. -/
def small : Config := { Config.generic with flashWords := 0x020000, dataTop := 0x21FF#16 }

/-- v7.2.3, v7.2.5: a load and a push above `DATA_TOP`. -/
theorem test_data_outside :
    (exec (.lds 4#5 0x2200#16) { State.reset with cfg := small } matches .fault (.dataOutside 0x2200#16)) ∧
      (exec (.push 5#5) { State.reset with cfg := small, sp := 0x2200#16 } matches .fault (.dataOutside 0x2200#16)) := by
  decide +kernel

/-- v7.2.1, v7.2.7: a fetch past the last program word, and the second word of a CALL there. -/
theorem test_fetch_outside :
    (step { State.reset with cfg := small, pc := 0x020000#22 } matches .fault (.programOutside 0x020000)) ∧
      (step { (State.reset.loadWord 0x01FFFF 0x940E#16) with cfg := small, pc := 0x01FFFF#22 } matches
        .fault (.programOutside 0x020000)) := by decide +kernel

/-- v7.7.1, v7.7.2, v7.7.5: a Z-only core, and a core without the register window. -/
theorem test_absent_parts :
    (exec (.ldX 4#5) { State.reset with cfg := { Config.generic with hasXY := false } } matches .refused .pointerXYAbsent) ∧
      (exec (.lddY 4#5 1#6) { State.reset with cfg := { Config.generic with hasXY := false } } matches
        .refused .pointerXYAbsent) ∧
      (exec (.lds 4#5 0x10#16) { State.reset with cfg := { Config.generic with regsInDataSpace := false } } matches
        .refused .dataBelow0x20) := by decide +kernel

/-- The interrupt sources of 95_test_vectors.md section 7.5, A = 0 and B = 1, at pc 0x012345 with SREG 0xA3. -/
def interrupted (requests : List Nat) : State :=
  { State.reset with
    cfg := { Config.generic with irqSources := [⟨0, 2#22⟩, ⟨1, 4#22⟩] }
    pc := 0x012345#22, sp := 0x21FF#16, sreg := 0xA3#8, requests := [requests] }

/-- The step ends with a next state that passes the check. -/
def steps (s : State) (check : State → Bool) : Bool :=
  match step s with
  | .next t => check t
  | _ => false

/-- v7.5.2: interrupt entry. -/
theorem test_interrupt_entry :
    steps (interrupted [1]) (fun t => t.pc == 4#22 && t.sreg == 0x23#8 && t.sp == 0x21FC#16 &&
      t.ramByte 0x21FF#16 == some 0x45#8 && t.ramByte 0x21FE#16 == some 0x23#8 && t.ramByte 0x21FD#16 == some 0x01#8) = true := by
  decide +kernel

/-- v7.5.3: the source named first in `IRQ_SOURCES` wins. -/
theorem test_interrupt_priority : steps (interrupted [1, 0]) (fun t => t.pc == 2#22) = true := by decide +kernel

/-- v7.5.5: SEI with a request runs, sets the inhibit, and the next instruction runs before the interrupt. -/
theorem test_inhibit_after_sei :
    steps { (interrupted [0]).loadWord 0x012345 0x9478#16 with sreg := 0x00#8 }
      (fun t => t.sreg == 0x80#8 && t.inhibit && pendingInterrupt { t with requests := [[0]] } == none) = true := by
  decide +kernel

/-- R212, R328: a sleeping core waits for a request that is to come, and wakes into the interrupt. -/
theorem test_sleep_wakes :
    steps { interrupted [] with sleeping := true, requests := [[], [0]] } (fun t => t.sleeping && t.pc == 0x012345#22) = true ∧
      steps { interrupted [0] with sleeping := true } (fun t => !t.sleeping && t.pc == 2#22) = true := by
  constructor <;> decide +kernel

/-- R212, U4: a wait that can never end is the end of the run: I = 0, no source, no request to come. -/
theorem test_sleep_stuck :
    (step { interrupted [0] with sleeping := true, sreg := 0x00#8 } matches .refused .waitNeverEnds) ∧
      (step { State.reset with sleeping := true, sreg := 0x80#8, requests := [[0]] } matches .refused .waitNeverEnds) ∧
      (step { interrupted [7] with sleeping := true } matches .refused .waitNeverEnds) := by decide +kernel

/-- R47, R73, v7.3.7: an unwritten RAM byte faults under `UNWRITTEN_READ` = fault; under draw its read changes nothing. -/
theorem test_unwritten_ram :
    (exec (.lds 4#5 0x0100#16) { State.reset with cfg := { Config.generic with unwrittenRead := .fault } } matches
      .fault (.unwrittenRead 0x0100#16)) ∧
    memRead State.reset 0x0100#16 = .next (Config.freeRam 0x0100#16, State.reset) := by
  refine ⟨?_, rfl⟩
  decide +kernel

/-- R61: with 16 bits of program counter no word at or above 2^16 can be reached, whatever `FLASH_WORDS` says. -/
theorem test_program_bound :
    (exec .elpm { State.reset with cfg := { Config.generic with pcWidth := .w16 }, rampz := 0x02#8 } matches
      .fault (.programOutside 0x010000)) ∧
    gives .elpm { State.reset with rampz := 0x02#8 } (fun t => t.reg 0#5 == 0xFF#8) = true := by decide +kernel

/-- v7.4.1 to v7.4.6: the reset state. -/
theorem test_reset :
    State.reset.pc = 0#22 ∧ State.reset.sreg = 0#8 ∧ State.reset.rampz = 0#8 ∧ State.reset.eind = 0#8 ∧
      State.reset.ram = [] ∧ State.reset.inhibit = false ∧ State.reset.presented = [] ∧ State.reset.sleeping = false := by
  decide

/-- The first instruction after reset is the one `withFetchWord` places (v7.4.7, v5.1.11). -/
theorem test_first_instruction : steps (State.reset.withFetchWord 32 0x2345940D) (fun t => t.pc == 0x12345#22) = true := by
  decide +kernel

/-! ### For each statement with hypotheses, a state and operands that meet them -/

/-- A stack at the top of the RAM of `Config.generic`, with 0x01, 0x23, 0x45 above SP. -/
def stacked : State := { start [] 0x00#8 [(0x21FD, 0x01), (0x21FE, 0x23), (0x21FF, 0x45)] with sp := 0x21FC#16 }

/-- The same with a program counter of 16 bits. -/
def stacked16 : State :=
  { start [] 0x00#8 [(0x21FE, 0x23), (0x21FF, 0x45)] with
    cfg := { Config.generic with pcWidth := .w16 }, sp := 0x21FD#16 }

theorem witness_DecodeInvertsEncode : (Instr.movw 30#5 0#5).wf = true ∧ (Instr.sbr 16#5 0xFF#8).wf = true := by decide

theorem witness_DecodedWordsEncodeBack :
    decodeWords 0x95FF#16 0xFFFF#16 = some (.call 0x3FFFFF#22) ∧ decodeWords 0x0000#16 0#16 = some .nop := by decide +kernel

theorem witness_ReservedWordsAreTheListed : decodeWords 0x95F8#16 0#16 = none ∧ decodeWords 0x95E8#16 0#16 = some .spm := by
  decide +kernel

/-- One word at the last program address, and two words. -/
theorem witness_StepRunsDecodedInstruction :
    ∃ (s u : State) (i j : Instr),
      (pendingInterrupt s = none ∧ s.sleeping = false ∧ s.pc.toNat < s.cfg.programWords ∧
        (isTwoWord (s.programWord s.pc.toNat) = true → (s.pcAfter 1).toNat < s.cfg.programWords) ∧
        decodeWords (s.programWord s.pc.toNat) (s.programWord (s.pcAfter 1).toNat) = some i) ∧
      (pendingInterrupt u = none ∧ u.sleeping = false ∧ u.pc.toNat < u.cfg.programWords ∧
        (isTwoWord (u.programWord u.pc.toNat) = true → (u.pcAfter 1).toNat < u.cfg.programWords) ∧
        decodeWords (u.programWord u.pc.toNat) (u.programWord (u.pcAfter 1).toNat) = some j) :=
  ⟨{ State.reset.loadWord 0x01FFFF 0x0000#16 with cfg := small, pc := 0x01FFFF#22 }, State.reset.withFetchWord 32 0x2345940D,
    .nop, .jmp 0x12345#22, by decide +kernel, by decide +kernel⟩

/-- The first word outside, the second word outside, a reserved word. -/
theorem witness_StepStopsAtTheFetch :
    ∃ s u v : State,
      (pendingInterrupt s = none ∧ s.sleeping = false ∧ s.cfg.programWords ≤ s.pc.toNat) ∧
      (pendingInterrupt u = none ∧ u.sleeping = false ∧ u.pc.toNat < u.cfg.programWords ∧
        isTwoWord (u.programWord u.pc.toNat) = true ∧ u.cfg.programWords ≤ (u.pcAfter 1).toNat) ∧
      (pendingInterrupt v = none ∧ v.sleeping = false ∧ v.pc.toNat < v.cfg.programWords ∧
        isTwoWord (v.programWord v.pc.toNat) = false ∧ decodeWords (v.programWord v.pc.toNat) 0#16 = none) :=
  ⟨{ State.reset with cfg := small, pc := 0x020000#22 },
    { State.reset.loadWord 0x01FFFF 0x940E#16 with cfg := small, pc := 0x01FFFF#22 }, State.reset,
    by decide +kernel, by decide +kernel, by decide +kernel⟩

theorem witness_ResetStateIsConsistent :
    parametersFit { Config.generic with pcWidth := .w16, resetVector := 0xFFFF#22, flashWords := 0x10000 } ∧
      Memory.wf flashBlank [] := by
  unfold parametersFit
  decide

/-- A consistent state whose step is a store to RAM. -/
theorem witness_StepKeepsConsistentState :
    ∃ s : State, s.consistent ∧ steps s (fun t => t.ramByte 0xFFFF#16 == some 0x22#8) = true :=
  ⟨(start [(4, 0x22), (28, 0xFF), (29, 0xFF)] 0x00#8).withFetchWord 16 0x9249,
    by unfold State.consistent parametersFit; decide +kernel, by decide +kernel⟩

theorem witness_StepKeepsProgramMemory :
    steps ((start [(4, 0x22), (28, 0xFF), (29, 0xFF)] 0x00#8).withFetchWord 16 0x9249) (fun _ => true) = true := by
  decide +kernel

theorem witness_AdditionWritesSumAndFlags :
    ∃ (s : State) (d r : Reg) (i : Instr) (b : Byte) (cin : Bool),
      (i, b, cin) ∈ [(Instr.add d r, s.reg r, false), (.adc d r, s.reg r, s.flagC),
      (.lsl d, s.reg d, false), (.rol d, s.reg d, s.flagC)] :=
  ⟨start [(0, 0x80), (31, 0x80)] 0x01#8, 0#5, 31#5, .rol 0#5, 0x80#8, true, by decide +kernel⟩

theorem witness_SubtractionWritesDifferenceAndFlags :
    ∃ (s : State) (d r : Reg) (k : Byte) (i : Instr) (written : List Reg) (a b : Byte) (cin keepZ : Bool),
      (i, written, a, b, cin, keepZ) ∈ [(Instr.sub d r, [d], s.reg d, s.reg r, false, false), (.subi d k, [d], s.reg d, k, false, false),
       (.sbc d r, [d], s.reg d, s.reg r, s.flagC, true), (.sbci d k, [d], s.reg d, k, s.flagC, true),
       (.neg d, [d], 0#8, s.reg d, false, false),
       (.cp d r, [], s.reg d, s.reg r, false, false), (.cpc d r, [], s.reg d, s.reg r, s.flagC, true),
       (.cpi d k, [], s.reg d, k, false, false)] ∧
      i.wf = true :=
  ⟨start [(0, 0x80), (31, 0x80)] 0x01#8, 0#5, 31#5, 0#8, .cpc 0#5 31#5, [], 0x80#8, 0x80#8, true, true, by decide +kernel⟩

theorem witness_WordArithmeticOnPairs : (Instr.adiw 24#5 63#6).wf = true ∧ (Instr.adiw 30#5 0#6).wf = true := by decide

theorem witness_OverflowAndSignFlagsAreSigned :
    (Instr.neg 0#5, (128 : Int)) ∈ [(Instr.neg 0#5, - ((start [(0, 0x80)] 0x00#8).reg 0#5).toInt)] ∧
      gives (.neg 0#5) (start [(0, 0x80)] 0x00#8) (fun _ => true) = true := by decide +kernel

/-- The three chains that write, and a comparison of a register pair with itself. -/
theorem witness_TwoByteArithmeticChains :
    ∃ (s : State) (d r d1 r1 : Reg) (k k1 : Byte), d1 ≠ d ∧ r1 ≠ d ∧
      gives (.add d r) s (fun t => gives (.adc d1 r1) t (fun _ => true)) = true ∧
      gives (.sub d r) s (fun t => gives (.sbc d1 r1) t (fun _ => true)) = true ∧
      gives (.subi d k) s (fun t => gives (.sbci d1 k1) t (fun _ => true)) = true ∧
      gives (.cp d d) s (fun t => gives (.cpc d d) t (fun _ => true)) = true :=
  ⟨start [(16, 0xFF), (17, 0xFF), (2, 0x01)] 0x00#8, 16#5, 2#5, 17#5, 3#5, 0xFF#8, 0xFF#8, by decide, by decide,
    by decide +kernel, by decide +kernel, by decide +kernel, by decide +kernel⟩

theorem witness_BranchesAfterCompare :
    gives (.cp 0#5 1#5) (start [(0, 0x80), (1, 0x7F)] 0x00#8) (fun t => gives (.brlt 0x40#7) t (fun _ => true)) = true ∧
      decide (((start [(0, 0x80), (1, 0x7F)] 0x00#8).reg 0#5).toInt < ((start [(0, 0x80), (1, 0x7F)] 0x00#8).reg 1#5).toInt) =
        true := by decide +kernel

theorem witness_LogicWritesResultAndFlags :
    ∃ (s : State) (d r : Reg) (k : Byte) (i : Instr) (res : Byte),
      (i, res) ∈ [(Instr.and d r, s.reg d &&& s.reg r), (.andi d k, s.reg d &&& k), (.or d r, s.reg d ||| s.reg r),
       (.ori d k, s.reg d ||| k), (.eor d r, s.reg d ^^^ s.reg r), (.sbr d k, s.reg d ||| k),
       (.cbr d k, s.reg d &&& (0xFF#8 - k)), (.tst d, s.reg d), (.clr d, 0#8)] ∧
      i.wf = true :=
  ⟨State.reset, 16#5, 0#5, 0xFF#8, .cbr 16#5 0xFF#8, 0#8, by decide +kernel⟩

theorem witness_FractionalProductsAreDoubled :
    ∃ (s : State) (d r : Reg) (i : Instr) (p : Int),
      (i, p) ∈ [(Instr.fmul d r, ((s.reg d).toNat : Int) * (s.reg r).toNat), (.fmuls d r, (s.reg d).toInt * (s.reg r).toInt),
       (.fmulsu d r, (s.reg d).toInt * (s.reg r).toNat)] :=
  ⟨start [(16, 0x80), (17, 0x80)] 0x00#8, 16#5, 17#5, .fmuls 16#5 17#5, 16384, by decide +kernel⟩

theorem witness_RightShiftsAndRotate :
    ∃ (s : State) (d : Reg) (i : Instr) (res : Byte),
      (i, res) ∈ [(Instr.lsr d, BitVec.ofNat 8 ((s.reg d).toNat / 2)),
       (.ror d, BitVec.ofNat 8 (128 * s.flagC.toNat + (s.reg d).toNat / 2)),
       (.asr d, BitVec.ofInt 8 ((s.reg d).toInt / 2))] :=
  ⟨start [(0, 0xFF)] 0x01#8, 0#5, .asr 0#5, 0xFF#8, by decide +kernel⟩

theorem witness_FlagInstructionsWriteOneFlag :
    ∃ (_ : State) (m : BitVec 3) (i : Instr) (n : BitVec 3) (x : Bool),
      (i, n, x) ∈ [(Instr.bset m, m, true), (.sec, 0#3, true), (.sez, 1#3, true), (.sen, 2#3, true), (.sev, 3#3, true),
       (.ses, 4#3, true), (.seh, 5#3, true), (.set, 6#3, true), (.sei, 7#3, true),
       (.bclr m, m, false), (.clc, 0#3, false), (.clz, 1#3, false), (.cln, 2#3, false), (.clv, 3#3, false),
       (.cls, 4#3, false), (.clh, 5#3, false), (.clt, 6#3, false), (.cli, 7#3, false)] :=
  ⟨State.reset, 7#3, .bset 7#3, 7#3, true, by decide +kernel⟩

theorem witness_IoBitReadModifyWrite :
    ∃ (s : State) (a : BitVec 5) (b : BitVec 3) (i : Instr) (x : Bool),
      (i, x) ∈ [(Instr.sbi a b, true), (.cbi a b, false)] ∧
      a.toNat + 0x20 ≤ s.cfg.dataTop.toNat :=
  ⟨State.reset, 31#5, 7#3, .cbi 31#5 7#3, false, by decide +kernel⟩

/-- The five settings. -/
theorem witness_BreakAndSleepBySetting :
    ∃ c1 c2 c3 : Config, (c1.breakBehaviour = .refuse ∧ c1.sleepBehaviour = .refuse) ∧
      (c2.breakBehaviour = .nop ∧ c2.sleepBehaviour = .nop) ∧ c3.sleepBehaviour = .wait :=
  ⟨{ Config.generic with breakBehaviour := .refuse, sleepBehaviour := .refuse },
    { Config.generic with sleepBehaviour := .nop }, Config.generic, by decide, by decide, by decide⟩

theorem witness_JumpsSetThePc :
    ∃ (s : State) (k12 : BitVec 12) (k22 : PcAddr) (i : Instr) (target : Int),
      (i, target) ∈ [(Instr.rjmp k12, (s.pc.toNat : Int) + 1 + k12.toInt), (.ijmp, (s.z.toNat : Int)),
       (.eijmp, ((s.eind.toNat % 64 * 65536 + s.z.toNat : Nat) : Int)), (.jmp k22, (k22.toNat : Int))] :=
  ⟨State.reset, 0x800#12, 0#22, .rjmp 0x800#12, -2047, by decide +kernel⟩

theorem witness_BranchesTestOneFlag :
    ∃ (s : State) (m : BitVec 3) (k : BitVec 7) (i : Instr) (taken : Bool),
      (i, taken) ∈ [(Instr.brbs m k, bitOf s.sreg m), (.brbc m k, !bitOf s.sreg m),
       (.brcs k, s.flagC), (.brlo k, s.flagC), (.brcc k, !s.flagC), (.brsh k, !s.flagC),
       (.breq k, s.flagZ), (.brne k, !s.flagZ), (.brmi k, s.flagN), (.brpl k, !s.flagN),
       (.brvs k, s.flagV), (.brvc k, !s.flagV), (.brlt k, s.flagS), (.brge k, !s.flagS),
       (.brhs k, s.flagH), (.brhc k, !s.flagH), (.brts k, s.flagT), (.brtc k, !s.flagT),
       (.brie k, s.flagI), (.brid k, !s.flagI)] :=
  ⟨State.reset, 7#3, 0x3F#7, .brid 0x3F#7, true, by decide +kernel⟩

/-- Both clauses: the following word inside, and at the first address outside. -/
theorem witness_RegisterSkips :
    (Instr.cpse 0#5 1#5, true) ∈ [(Instr.cpse 0#5 1#5, decide (State.reset.reg 0#5 = State.reset.reg 1#5))] ∧
      (({ State.reset with cfg := small, pc := 0x01FFFE#22 } : State).pcAfter 1).toNat < small.programWords ∧
      small.programWords ≤ (({ State.reset with cfg := small, pc := 0x01FFFF#22 } : State).pcAfter 1).toNat := by decide +kernel

/-- Whatever byte is drawn, one of SBIC and SBIS skips and the other does not. The skip with the following word inside, then at the
last program word the instruction that does not skip and the one that does. -/
theorem witness_IoBitSkips :
    ∃ (s u : State) (a : BitVec 5) (b : BitVec 3) (i j : Instr),
      ((i, true) ∈ [(Instr.sbic a b, !bitOf (Config.freeByte s.draws) b), (.sbis a b, bitOf (Config.freeByte s.draws) b)] ∧
        a.toNat + 0x20 ≤ s.cfg.dataTop.toNat ∧ (s.pcAfter 1).toNat < s.cfg.programWords) ∧
      ((i, true) ∈ [(Instr.sbic a b, !bitOf (Config.freeByte u.draws) b), (.sbis a b, bitOf (Config.freeByte u.draws) b)] ∧
        (j, false) ∈ [(Instr.sbic a b, !bitOf (Config.freeByte u.draws) b), (.sbis a b, bitOf (Config.freeByte u.draws) b)] ∧
        a.toNat + 0x20 ≤ u.cfg.dataTop.toNat ∧ u.cfg.programWords ≤ (u.pcAfter 1).toNat) := by
  refine ⟨{ State.reset with cfg := small, pc := 0x01FFFE#22 }, { State.reset with cfg := small, pc := 0x01FFFF#22 }, 31#5, 0#3,
    if bitOf (Config.freeByte State.reset.draws) 0#3 then .sbis 31#5 0#3 else .sbic 31#5 0#3,
    if bitOf (Config.freeByte State.reset.draws) 0#3 then .sbic 31#5 0#3 else .sbis 31#5 0#3,
    ⟨?_, by decide +kernel, by decide +kernel⟩, ?_, ?_, by decide +kernel, by decide +kernel⟩ <;>
  · cases bitOf (Config.freeByte State.reset.draws) 0#3 <;> simp

/-- RAM through X at its edge, a register through the wrap of Y + 63, the last I/O address, LDS at 0xFFFF. -/
theorem witness_LoadsReadTheirAddress :
    (start [(26, 0x60), (27, 0x00)] 0x00#8 [(0x0060, 0x77)]).pair 26#5 = 0x0060#16 ∧
      (start [(26, 0x60), (27, 0x00)] 0x00#8 [(0x0060, 0x77)]).seen 0x0060#16 = some 0x77#8 ∧
      pointerHazard (.ldX 25#5) = false ∧ Config.generic.hasXY = true ∧
      BitVec.ofNat 16 (((start [(28, 0xFF), (29, 0xFF)] 0x00#8).pair 28#5).toNat + 63) = 0x003E#16 ∧
      BitVec.ofNat 16 (((start [(28, 0xC1), (29, 0xFF)] 0x00#8).pair 28#5).toNat + 63) = 0x0000#16 ∧
      (start [(0, 0x9D), (28, 0xC1), (29, 0xFF)] 0x00#8).seen 0x0000#16 = some 0x9D#8 ∧
      pointerHazard (.lddY 27#5 63#6) = false ∧
      BitVec.ofNat 16 ((63#6).toNat + 0x20) = 0x005F#16 ∧ (start [] 0xA5#8).seen 0x005F#16 = some 0xA5#8 ∧
      (start [] 0x00#8 [(0xFFFF, 0x01)]).seen 0xFFFF#16 = some 0x01#8 := by decide +kernel

theorem witness_LoadsWithPostIncrement :
    ∃ (s : State) (d : Reg) (v : Byte) (i : Instr) (p : Pointer),
      (i, p) ∈ [(Instr.ldXInc d, Pointer.x), (.ldYInc d, .y), (.ldZInc d, .z)] ∧
      pointerHazard i = false ∧ (needsXY i = true → s.cfg.hasXY = true) ∧ s.seen (s.pointer p) = some v :=
  ⟨start [(30, 0xFF), (31, 0xFF)] 0x00#8 [(0xFFFF, 0x33)], 4#5, 0x33#8, .ldZInc 4#5, .z, by decide +kernel⟩

theorem witness_LoadsWithPreDecrement :
    ∃ (s : State) (d : Reg) (v : Byte) (i : Instr) (p : Pointer),
      (i, p) ∈ [(Instr.ldXDec d, Pointer.x), (.ldYDec d, .y), (.ldZDec d, .z)] ∧
      pointerHazard i = false ∧ (needsXY i = true → s.cfg.hasXY = true) ∧
      (s.setPair p.lo (s.pointer p - 1#16)).seen (s.pointer p - 1#16) = some v :=
  ⟨start [(28, 0x00), (29, 0x00)] 0x00#8 [(0xFFFF, 0x33)], 27#5, 0x33#8, .ldYDec 27#5, .y, by decide +kernel⟩

theorem witness_StoresWriteTheirAddress :
    ∃ (s : State) (r : Reg) (k : Word) (q a6 : BitVec 6) (i : Instr) (a : Word) (words : Nat),
      (i, a, words) ∈ [(Instr.sts k r, k, 2), (.stX r, s.pair 26#5, 1), (.stY r, s.pair 28#5, 1), (.stZ r, s.pair 30#5, 1),
       (.stdY q r, BitVec.ofNat 16 ((s.pair 28#5).toNat + q.toNat), 1),
       (.stdZ q r, BitVec.ofNat 16 ((s.pair 30#5).toNat + q.toNat), 1),
       (.ioOut a6 r, BitVec.ofNat 16 (a6.toNat + 0x20), 1)] ∧
      pointerHazard i = false ∧ (needsXY i = true → s.cfg.hasXY = true) ∧
      (placeOf s.cfg a ≠ .outside ∧ placeOf s.cfg a ≠ .noWindow) :=
  ⟨start [(26, 0xFF), (27, 0xFF)] 0x00#8, 4#5, 0#16, 0#6, 0#6, .stX 4#5, 0xFFFF#16, 1, by decide +kernel⟩

theorem witness_StoresWithPostIncrement :
    ∃ (s : State) (r : Reg) (i : Instr) (p : Pointer),
      (i, p) ∈ [(Instr.stXInc r, Pointer.x), (.stYInc r, .y), (.stZInc r, .z)] ∧
      pointerHazard i = false ∧ (needsXY i = true → s.cfg.hasXY = true) ∧
      (placeOf s.cfg (s.pointer p) ≠ .outside ∧ placeOf s.cfg (s.pointer p) ≠ .noWindow) :=
  ⟨start [(26, 0x1A)] 0x00#8, 5#5, .stXInc 5#5, .x, by decide +kernel⟩

theorem witness_StoresWithPreDecrement :
    ∃ (s : State) (r : Reg) (i : Instr) (p : Pointer),
      (i, p) ∈ [(Instr.stXDec r, Pointer.x), (.stYDec r, .y), (.stZDec r, .z)] ∧
      pointerHazard i = false ∧ (needsXY i = true → s.cfg.hasXY = true) ∧
      (placeOf s.cfg (s.pointer p - 1#16) ≠ .outside ∧ placeOf s.cfg (s.pointer p - 1#16) ≠ .noWindow) :=
  ⟨start [(28, 0x00)] 0x00#8, 5#5, .stYDec 5#5, .y, by decide +kernel⟩

/-- The last word a 22-bit program counter reaches, and with RAMPZ one more the first it does not. -/
theorem witness_ProgramLoadsReadTheirByte :
    ∃ (s : State) (d0 : Reg) (i : Instr) (d : Reg) (ba : Nat) (inc : Bool) (u : State) (j : Instr) (e : Reg) (bb : Nat)
      (inc1 : Bool),
      ((i, d, ba, inc) ∈ [(Instr.lpm, 0#5, s.z.toNat, false), (.lpmZ d0, d0, s.z.toNat, false), (.lpmZInc d0, d0, s.z.toNat, true),
       (.elpm, 0#5, s.rampz.toNat * 65536 + s.z.toNat, false),
       (.elpmZ d0, d0, s.rampz.toNat * 65536 + s.z.toNat, false),
       (.elpmZInc d0, d0, s.rampz.toNat * 65536 + s.z.toNat, true)] ∧
        pointerHazard i = false ∧ (i = .elpmZInc d → s.z ≠ 0xFFFF#16) ∧ ba / 2 < s.cfg.programWords) ∧
      ((j, e, bb, inc1) ∈ [(Instr.lpm, 0#5, u.z.toNat, false), (.lpmZ d0, d0, u.z.toNat, false), (.lpmZInc d0, d0, u.z.toNat, true),
       (.elpm, 0#5, u.rampz.toNat * 65536 + u.z.toNat, false),
       (.elpmZ d0, d0, u.rampz.toNat * 65536 + u.z.toNat, false),
       (.elpmZInc d0, d0, u.rampz.toNat * 65536 + u.z.toNat, true)] ∧
        pointerHazard j = false ∧ (j = .elpmZInc e → u.z ≠ 0xFFFF#16) ∧ u.cfg.programWords ≤ bb / 2) :=
  ⟨{ start [(30, 0xFE), (31, 0xFF)] 0x00#8 with rampz := 0x7F#8 }, 29#5, .elpmZInc 29#5, 29#5, 0x7FFFFE, true,
    { State.reset with rampz := 0x80#8 }, .elpm, 0#5, 0x800000, false, by decide +kernel, by decide +kernel⟩

/-- PUSH at SP = 0 (onto R0), POP of the last RAM byte. -/
theorem witness_PushAndPop :
    ({ State.reset with sp := 0#16 } : State).writable 0#16 ∧
      (({ start [] 0x00#8 [(0xFFFF, 0x3C)] with sp := 0xFFFE#16 } : State).setSp 0xFFFF#16).seen 0xFFFF#16 = some 0x3C#8 := by
  unfold State.writable
  decide +kernel

theorem witness_RamReadsBackAsWritten :
    placeOf Config.generic 0x0060#16 = .ram ∧ placeOf Config.generic 0xFFFF#16 = .ram ∧ Memory.wf ramBlank [] ∧
      (memRead State.reset 0x005F#16 matches .next (0x00#8, _)) := by decide +kernel

theorem witness_CallsPushThenJump :
    ∃ (s : State) (k12 : BitVec 12) (k22 : PcAddr) (i : Instr) (n : Nat) (target : Int),
      (i, n, target) ∈ [(Instr.rcall k12, 1, (s.pc.toNat : Int) + 1 + k12.toInt), (.icall, 1, (s.z.toNat : Int)),
       (.eicall, 1, ((s.eind.toNat % 64 * 65536 + s.z.toNat : Nat) : Int)), (.call k22, 2, (k22.toNat : Int))] :=
  ⟨State.reset, 0xFFF#12, 0#22, .rcall 0xFFF#12, 1, 0, by decide +kernel⟩

/-- The lowest stack that has room in RAM, and one at the top of memory. -/
theorem witness_CallsLeaveReturnAddressOnStack :
    ({ State.reset with sp := 0x62#16 } : State).pushRoom ∧ State.reset.pushRoom ∧
      (Instr.call 0x3FFFFF#22, 2, (0x3FFFFF : Int)) ∈ [(Instr.call 0x3FFFFF#22, 2, ((0x3FFFFF#22).toNat : Int))] := by
  unfold State.pushRoom
  decide +kernel

/-- Both widths of the program counter. -/
theorem witness_ReturnsPopThePc :
    stackShows stacked 0x01#8 0x23#8 0x45#8 ∧ stackShows stacked16 0#8 0x23#8 0x45#8 := by
  unfold stackShows
  decide +kernel

/-- The called code may be empty: `u` is `t`. -/
theorem witness_CallThenReturnComesBack :
    State.reset.pushRoom ∧ gives (.call 0x12345#22) State.reset (fun t => t.cfg == State.reset.cfg) = true := by
  unfold State.pushRoom
  decide +kernel

theorem witness_InterruptTakenWhenAllowed : pendingInterrupt (interrupted [1]) = some ⟨1, 4#22⟩ := by decide +kernel

theorem witness_InterruptEntryEffect : (interrupted [1]).pushRoom := by
  unfold State.pushRoom
  decide +kernel

/-- I set from 0, I set when it was 1, I cleared, I left at 0. -/
theorem witness_InhibitForOneInstruction :
    ∃ s u v w : State,
      (pendingInterrupt s = none ∧ s.sleeping = false ∧ s.flagI = false ∧ steps s (fun t => t.flagI && t.inhibit) = true) ∧
      (pendingInterrupt u = none ∧ u.sleeping = false ∧ u.flagI = true ∧ steps u (fun t => t.flagI) = true) ∧
      (pendingInterrupt v = none ∧ v.sleeping = false ∧ v.flagI = true ∧ steps v (fun t => !t.flagI) = true) ∧
      (pendingInterrupt w = none ∧ w.sleeping = false ∧ w.flagI = false ∧ steps w (fun t => !t.flagI) = true) :=
  ⟨State.reset.withFetchWord 16 0x9478, { State.reset.withFetchWord 16 0x9478 with sreg := 0x80#8 },
    { State.reset.withFetchWord 16 0x94F8 with sreg := 0x80#8 }, State.reset.withFetchWord 16 0x0000,
    by decide +kernel, by decide +kernel, by decide +kernel, by decide +kernel⟩

/-- The handler may be empty: `u` is `t`. -/
theorem witness_HandlerReturnsToInterruptedCode :
    (interrupted [1]).pc.toNat < 2 ^ (interrupted [1]).cfg.pcBits ∧ (interrupted [1]).pushRoom ∧
      (match takeInterrupt ⟨1, 4#22⟩ (interrupted [1]) with
        | .next t => !t.flagI
        | _ => false) = true := by
  unfold State.pushRoom
  decide +kernel

/-- Asleep with an interrupt pending, with one to come, and in the ways in which none can come. -/
theorem witness_SleepWaitsForInterrupt :
    ∃ s u v w x y : State,
      (s.sleeping = true ∧ pendingInterrupt s = some ⟨0, 2#22⟩ ∧ steps s (fun _ => true) = true) ∧
      (u.sleeping = true ∧ pendingInterrupt u = none ∧ u.flagI = true ∧ u.inhibit = false ∧
        ∃ requesting ∈ u.requests, ∃ src ∈ u.cfg.irqSources, src.name ∈ requesting) ∧
      (v.sleeping = true ∧ v.flagI = false) ∧ (w.sleeping = true ∧ w.inhibit = true) ∧
      (x.sleeping = true ∧ x.cfg.irqSources = []) ∧
      (y.sleeping = true ∧ y.flagI = true ∧ y.inhibit = false ∧
        ∀ requesting ∈ y.requests, ∀ src ∈ y.cfg.irqSources, src.name ∉ requesting) :=
  ⟨{ interrupted [0] with sleeping := true }, { interrupted [] with sleeping := true, requests := [[7], [1]] },
    { interrupted [0] with sleeping := true, sreg := 0x7F#8 }, { interrupted [0] with sleeping := true, inhibit := true },
    { State.reset with sleeping := true }, { interrupted [7] with sleeping := true },
    by decide +kernel, by decide +kernel, by decide +kernel, by decide +kernel, by decide +kernel, by decide +kernel⟩

theorem witness_PointerAsOperandFaults :
    ∃ (i : Instr) (s : State), pointerHazard i = true ∧ (needsXY i = true → s.cfg.hasXY = true) ∧ s.z ≠ 0xFFFF#16 :=
  ⟨.elpmZInc 31#5, State.reset, by decide +kernel⟩

theorem witness_ZOnlyCoreRefusesXAndY :
    needsXY (.stYDec 28#5) = true ∧ ({ Config.generic with hasXY := false } : Config).hasXY = false := by decide

theorem witness_ElpmCarryIsRefused : (start [(30, 0xFF), (31, 0xFF)] 0x00#8).z = 0xFFFF#16 := by decide +kernel

/-- The parameters of `small`, without the register window and with reads of unwritten RAM that fault. -/
def smallest : Config := { small with regsInDataSpace := false, unwrittenRead := .fault }

/-- A load at the first address above `DATA_TOP`, the second push of a call that wraps there, the store at the last address of the
absent window, the read of an unwritten byte by the last pop of a return, and the pushes of an interrupt entry. -/
theorem witness_AccessesOutsideStop :
    ∃ s u v w x : State,
      (reachesAccess (.lds 4#5 0x2200#16) s ∧ 0x2200#16 ∈ loadAddresses (.lds 4#5 0x2200#16) s ∧
        s.cfg.dataTop.toNat < (0x2200#16).toNat) ∧
      (reachesAccess .icall u ∧ 0xFFFF#16 ∈ storeAddresses .icall u ∧ u.cfg.dataTop.toNat < (0xFFFF#16).toNat) ∧
      (reachesAccess (.stZ 4#5) v ∧ 0x001F#16 ∈ storeAddresses (.stZ 4#5) v ∧ v.inAbsentWindow 0x001F#16) ∧
      (reachesAccess .ret w ∧ 0x0102#16 ∈ loadAddresses .ret w ∧ w.unreadable 0x0102#16) ∧
      (0x001F#16 ∈ pushAddresses x x.pc ∧ x.inAbsentWindow 0x001F#16 ∧ 0x2200#16 ∈ pushAddresses s s.pc) :=
  ⟨{ State.reset with cfg := smallest, sp := 0x2200#16 }, { State.reset with cfg := small, sp := 0x0000#16 },
    { start [(30, 0x1F)] 0x00#8 with cfg := smallest },
    { start [] 0x00#8 [(0x0101, 0x00)] with cfg := smallest, sp := 0x0100#16 },
    { State.reset with cfg := smallest, sp := 0x001F#16 },
    by unfold reachesAccess; refine ⟨⟨by decide, by decide, fun _ h => by cases h⟩, by decide +kernel, by decide +kernel⟩,
    by unfold reachesAccess; refine ⟨⟨by decide, by decide, fun _ h => by cases h⟩, by decide +kernel, by decide +kernel⟩,
    by unfold reachesAccess; refine ⟨⟨by decide, by decide, fun _ h => by cases h⟩, by decide +kernel,
      by unfold State.inAbsentWindow; decide +kernel⟩,
    by unfold reachesAccess; refine ⟨⟨by decide, by decide, fun _ h => by cases h⟩, by decide +kernel,
      by unfold State.unreadable; decide +kernel⟩,
    by unfold State.inAbsentWindow; decide +kernel⟩

/-- Each kind of access fault and refusal happens, with its address. -/
theorem witness_EveryStopHasItsCause :
    (exec (.ldX 26#5) State.reset matches .fault .pointerAsOperand) ∧ (exec .spm State.reset matches .refused .spmRefused) ∧
      (exec (.pop 4#5) { State.reset with cfg := smallest, sp := 0x21FF#16 } matches .fault (.dataOutside 0x2200#16)) ∧
      (exec (.pop 4#5) { State.reset with cfg := smallest, sp := 0x21FE#16 } matches .fault (.unwrittenRead 0x21FF#16)) ∧
      (exec (.push 4#5) { State.reset with cfg := smallest, sp := 0x001F#16 } matches .refused .dataBelow0x20) ∧
      (exec (.sbrc 4#5 0#3) { State.reset with cfg := small, pc := 0x01FFFF#22 } matches .fault (.programOutside 0x020000)) := by
  decide +kernel

theorem witness_OnlyStoresChangeRam :
    gives (.call 0x12345#22) State.reset (fun _ => true) = true ∧
      0xFFFC#16 ∉ storeAddresses (.call 0x12345#22) State.reset := by decide +kernel

/-- I, RAMPZ and EIND changed by their stores. -/
theorem witness_OnlyNamedInstructionsChangeControl :
    gives (.ioOut 0x3F#6 16#5) (start [(16, 0x80)] 0x00#8) (fun t => t.flagI) = true ∧
      gives (.ioOut 0x3B#6 16#5) (start [(16, 0x01)] 0x00#8) (fun t => t.rampz != 0#8) = true ∧
      gives (.ioOut 0x3C#6 16#5) (start [(16, 0x01)] 0x00#8) (fun t => t.eind != 0#8) = true := by decide +kernel

end Sys2Proof.Tests
end

/-! PUSH and POP (R13, R193, R194): the rules about one data access followed by the advance of the pc, then O43. -/

namespace Sys2Proof.Machine

/-! ### One access, then the advance of the pc -/

/-- The address of a following instruction depends on nothing but the pc and the parameters (R35, R36). -/
theorem State.pcAfter_congr {s t : State} (hpc : t.pc = s.pc) (hcfg : t.cfg = s.cfg) (n : Nat) :
    t.pcAfter n = s.pcAfter n := by
  rw [State.pcAfter, State.pcAfter, hpc, hcfg]

/-- What a store leaves does not speak of the pc, so the advance of the pc keeps it. -/
theorem storesByte_advance {s t : State} {a : Word} {v : Byte} (h : storesByte s t a v) (n : PcAddr) :
    storesByte s (t.advance n) a v := h

/-- The frame of a read into a register, from the state at the read. -/
theorem keepsRestButRead_load (u : State) (a : Word) (d : Reg) (v : Byte) (n : PcAddr) :
    keepsRestButRead u u (((u.afterRead a).setReg d v).advance n) a [d] := by
  obtain ⟨hregs, hflags, -, hspecial, hirq, hram, hprogram, -, -⟩ :=
    keepsRest_trans (keepsRest_setReg (u.afterRead a) d v) (keepsRest_advance _ n)
  exact ⟨hregs, hflags, hspecial, hirq, hram, hprogram, rfl, rfl⟩

/-- The frame of a read does not speak of SP: it may be taken from the state before SP moved. -/
theorem keepsRestButRead_setSp {u s t : State} {a sp : Word} {registers : List Reg}
    (h : keepsRestButRead u (s.setSp sp) t a registers) : keepsRestButRead u s t a registers := h

/-! ### PUSH and POP -/

/-- PUSH ends where its push does, with the pc advanced (R193). -/
theorem exec_push_of_push8 {r : Reg} {s u : State} (h : push8 s (s.reg r) = .next u) :
    exec (.push r) s = .next (u.advance 1#22) := by
  simp [exec, execPush, h]

/-- POP ends where its pop does, with the byte in its register and the pc advanced (R194). -/
theorem exec_pop_of_pop8 {d : Reg} {s u : State} {v : Byte} (h : pop8 s = .next (v, u)) :
    exec (.pop d) s = .next ((u.setReg d v).advance 1#22) := by
  simp [exec, execPop, h]

/-- Settles O43: PUSH by the effect of a push at a writable SP, POP by the effect of a read at SP plus one. -/
theorem pushAndPop : Obligations.PushAndPop := by
  refine fun s r => ⟨fun hw => ?push, fun v hv => ?pop⟩
  case push =>
    obtain ⟨u, hu, hstores, hregs, hsp, hpc, hdraws⟩ := push8_of_writable (s.reg r) hw
    have ⟨hcfg, _⟩ := hstores
    exact ⟨u.advance 1#22, exec_push_of_push8 hu, storesByte_advance hstores 1#22, hregs, hsp, hdraws,
      (u.advance_pcAfter 1#22).trans (State.pcAfter_congr hpc hcfg 1)⟩
  case pop =>
    have hload := keepsRestButRead_load (s.setSp (s.sp + 1#16)) (s.sp + 1#16) r v 1#22
    exact ⟨_, exec_pop_of_pop8 (pop8_of_seen hv), by simp, rfl, State.advance_pcAfter _ 1#22,
      keepsRestButRead_setSp hload⟩

end Sys2Proof.Machine

/-! The invariant of the state (R34, R36, R41, R42, R61, R62): each elementary update keeps it, so every step does; then O7
and O8. -/

namespace Sys2Proof.Machine

/-! ### Facts that every update keeps -/

/-- Packages the induction over updates: what each elementary update keeps, any number of them keep. -/
theorem Updates.keep {A : List Word} {e : Bool} {P : State → Prop} {s t : State}
    (hP : ∀ {u v : State}, Update A e u v → P u → P v) (h : Updates A e s t) (hs : P s) : P t := by
  induction h with
  | refl => exact hs
  | tail _ hu ih => exact hP hu ih

/-! ### What a step can do -/

/-- A step that ends is an interrupt entry, the wait of a sleeping core, or one decoded instruction (R212, R315). -/
theorem step_eq_next_cases {s t : State} (h : step s = .next t) :
    (∃ src, pendingInterrupt s = some src ∧ takeInterrupt src s.passBoundary = .next t) ∨
    (pendingInterrupt s = none ∧ s.sleeping = true ∧ s.canWake = true ∧ t = s.passBoundary) ∨
    (pendingInterrupt s = none ∧ s.sleeping = false ∧ ∃ w i, fetch s.passBoundary = .next w ∧
      decodeWords w.1 w.2 = some i ∧ exec i { s.passBoundary with inhibit := false } = .next t) := by
  rw [step, cycle] at h
  split at h
  next src hp => exact .inl ⟨src, hp, h⟩
  next hp =>
    split at h
    next hsleep =>
      rw [waitAsleep] at h
      split at h
      next hwake => cases h; exact .inr (.inl ⟨hp, hsleep, hwake, rfl⟩)
      next => cases h
    next hsleep =>
      obtain ⟨w, hw, h⟩ := andThen_eq_next.1 h
      split at h
      next i hi => exact .inr (.inr ⟨hp, eq_false_of_ne_true hsleep, w, i, hw, hi, h⟩)
      next => cases h

/-! ### The invariant under each update -/

/-- A write through a mask sets no bit outside it (R41, R42). -/
theorem and_mask_and_not (v mask : Byte) : v &&& mask &&& ~~~mask = 0#8 := by
  rw [BitVec.and_assoc, BitVec.and_not_self]
  exact BitVec.and_zero

theorem State.consistent_setPc {s : State} (h : s.consistent) (v : PcAddr) : (s.setPc v).consistent := by
  obtain ⟨hfit, -, rest⟩ := h
  exact ⟨hfit, wrapPc_lt s.cfg v, rest⟩

theorem State.consistent_setRampz {s : State} (h : s.consistent) (v : Byte) : (s.setRampz v).consistent := by
  obtain ⟨hfit, hpc, -, rest⟩ := h
  exact ⟨hfit, hpc, and_mask_and_not v s.cfg.rampzMask, rest⟩

theorem State.consistent_setEind {s : State} (h : s.consistent) (v : Byte) : (s.setEind v).consistent := by
  obtain ⟨hfit, hpc, hrampz, -, rest⟩ := h
  exact ⟨hfit, hpc, hrampz, and_mask_and_not v s.cfg.eindMask, rest⟩

/-- A RAM write keeps the invariant where the map has RAM: the one cell it may list lies there (R62). -/
theorem State.consistent_setRam {s : State} (h : s.consistent) {a : Word} (ha : placeOf s.cfg a = .ram) (v : Byte) :
    (s.setRam a v).consistent := by
  obtain ⟨hfit, hpc, hrampz, heind, hwf, hplace, hflash⟩ := h
  refine ⟨hfit, hpc, hrampz, heind, s.wf_setRam a v hwf, fun c hc => ?_, hflash⟩
  obtain rfl | hc := Memory.mem_write (State.setRam_ram s a v ▸ hc)
  · exact ⟨a.isLt, by simpa using ha⟩
  · exact hplace c hc

/-- A store keeps the invariant, wherever it goes (R62). -/
theorem State.consistent_memWrite {s t : State} {a : Word} {v : Byte} (h : s.consistent)
    (hw : memWrite s a v = .next t) : t.consistent := by
  unfold memWrite at hw
  cases hp : placeOf s.cfg a <;> rw [hp] at hw <;> cases hw
  case rampz => exact State.consistent_setRampz h v
  case eind => exact State.consistent_setEind h v
  case ram => exact State.consistent_setRam h hp v
  all_goals exact h

/-- The updates of the pc and of memory keep the invariant by their own lemmas; it does not speak of what the others
change. -/
theorem Update.keeps_consistent {A : List Word} {e : Bool} {s t : State} (hu : Update A e s t) (h : s.consistent) :
    t.consistent := by
  cases hu with
  | setPc v => exact State.consistent_setPc h v
  | store _ _ _ _ hw => exact State.consistent_memWrite h hw
  | _ => exact h

theorem exec_keeps_consistent {i : Instr} {s t : State} (h : s.consistent) (he : exec i s = .next t) : t.consistent :=
  (exec_updates he).keep Update.keeps_consistent h

/-- Interrupt entry pushes the pc and goes to the vector, reduced modulo 2^PC_BITS (R36, R316). -/
theorem takeInterrupt_keeps_consistent {src : IrqSource} {s t : State} (h : s.consistent)
    (ht : takeInterrupt src s = .next t) : t.consistent := by
  obtain ⟨u, hpush, rfl⟩ := takeInterrupt_eq_next.1 ht
  have hupdates : Updates (pushAddresses s s.pc) false s u := (Updates.refl s).pushPc (fun _ ha => ha) hpush
  have hu : u.consistent := hupdates.keep Update.keeps_consistent h
  exact State.consistent_setPc (s := { u with sreg := u.sreg &&& 0x7F#8, sleeping := false }) hu src.vector

/-! ### The obligations -/

/-- Settles O7: by the cases of a step, an instruction and an interrupt entry being sequences of updates that each keep the
invariant. -/
theorem stepKeepsConsistentState : Obligations.StepKeepsConsistentState := by
  intro s t h hstep
  obtain ⟨src, -, hirq⟩ | ⟨-, -, -, rfl⟩ | ⟨-, -, w, i, -, -, hexec⟩ := step_eq_next_cases hstep
  · exact takeInterrupt_keeps_consistent (s := s.passBoundary) h hirq
  · exact h
  · exact exec_keeps_consistent (s := { s.passBoundary with inhibit := false }) h hexec

/-- The reset state: RAMPZ and EIND zero, no RAM byte listed, the pc at a reset vector that fits. -/
theorem State.consistent_resetWith {c : Config} {program : Memory} (hfit : parametersFit c)
    (hprogram : Memory.wf flashBlank program) : (State.resetWith c program).consistent :=
  ⟨hfit, hfit.1, BitVec.zero_and, BitVec.zero_and, Memory.wf_nil ramBlank, fun _ hc => absurd hc List.not_mem_nil, hprogram⟩

/-- The parameters of `Config.generic` fit (log 4). -/
theorem parametersFit_generic : parametersFit Config.generic := ⟨by decide, by decide⟩

/-- Settles O8: the lemma about every reset state, and the chosen parameters among those it speaks of. -/
theorem resetStateIsConsistent : Obligations.ResetStateIsConsistent :=
  ⟨State.consistent_resetWith parametersFit_generic (Memory.wf_nil flashBlank),
    fun _ _ hfit hprogram => State.consistent_resetWith hfit hprogram⟩

end Sys2Proof.Machine

/-! V and S after an 8-bit addition, subtraction or comparison against the exact signed result (R37, R39), then O14. The byte
an operation leaves is its exact result `e` wrapped into -128 to 127: V says that it wrapped, and where it did N is the wrong
sign, which S = N xor V puts right. -/

namespace Sys2Proof.Machine

/-! ### The result byte against the exact result -/

theorem byte_toInt_bounds (v : Byte) : -128 ≤ v.toInt ∧ v.toInt < 128 := ⟨BitVec.le_toInt v, BitVec.toInt_lt⟩

theorem addResult_toInt_emod (a b : Byte) (cin : Bool) :
    (addResult a b cin).toInt % 256 = (a.toInt + b.toInt + cin.toNat) % 256 := by
  simp only [BitVec.toInt_eq_toNat_cond, addResult_toNat]
  omega

theorem subResult_toInt_emod (a b : Byte) (cin : Bool) :
    (subResult a b cin).toInt % 256 = (a.toInt - b.toInt - cin.toNat) % 256 := by
  have hc := cin.toNat_le
  simp only [BitVec.toInt_eq_toNat_cond, subResult_toNat]
  omega

/-! ### V and S of the flag values -/

/-- V says that the exact result `e` lies outside -128 to 127, and S = N xor V that it is negative (R37, R39). -/
def FlagValues.speakOf (f : FlagValues) (e : Int) : Prop :=
  f.v = decide (e < -128 ∨ 127 < e) ∧ (f.n ^^ f.v) = decide (e < 0)

/-- N corrected by V is the sign of the exact result: a byte that wrapped once has the wrong sign, one that did not is `e`. -/
theorem wrapped_sign_xor_overflow {res : Byte} {e : Int} (hmod : res.toInt % 256 = e % 256) (hlo : -256 ≤ e)
    (hhi : e < 256) : (bit7 res ^^ decide (e < -128 ∨ 127 < e)) = decide (e < 0) := by
  have hres := byte_toInt_bounds res
  rw [bit7_eq_toInt_neg]
  by_cases hv : e < -128 ∨ 127 < e
  · have hwrong : res.toInt < 0 ↔ ¬ e < 0 := by omega
    simp only [hv, hwrong, decide_not, decide_true, Bool.xor_true, Bool.not_not]
  · have hexact : res.toInt = e := by omega
    simp [hv, hexact]

/-- An addition overflows when operands of one sign give a result of the other (R130). -/
theorem addFlags_speakOf (a b : Byte) (cin : Bool) :
    (addFlags a b cin).speakOf (a.toInt + b.toInt + cin.toNat) := by
  have ha := byte_toInt_bounds a
  have hb := byte_toInt_bounds b
  have hc := cin.toNat_le
  have hres := byte_toInt_bounds (addResult a b cin)
  have hmod := addResult_toInt_emod a b cin
  have hv : (addFlags a b cin).v =
      decide (a.toInt + b.toInt + cin.toNat < -128 ∨ 127 < a.toInt + b.toInt + cin.toNat) := by
    rw [Bool.eq_iff_iff]
    simp only [addFlags, bit7_eq_toInt_neg, Bool.or_eq_true, Bool.and_eq_true, Bool.not_eq_true', decide_eq_true_eq,
      decide_eq_false_iff_not]
    omega
  exact ⟨hv, hv ▸ wrapped_sign_xor_overflow hmod (by omega) (by omega)⟩

/-- A subtraction overflows when operands of different signs give a result of the sign of the one taken away (R131). -/
theorem subFlags_speakOf (a b : Byte) (cin keepZ oldZ : Bool) :
    (subFlags a b cin keepZ oldZ).speakOf (a.toInt - b.toInt - cin.toNat) := by
  have ha := byte_toInt_bounds a
  have hb := byte_toInt_bounds b
  have hc := cin.toNat_le
  have hres := byte_toInt_bounds (subResult a b cin)
  have hmod := subResult_toInt_emod a b cin
  have hv : (subFlags a b cin keepZ oldZ).v =
      decide (a.toInt - b.toInt - cin.toNat < -128 ∨ 127 < a.toInt - b.toInt - cin.toNat) := by
    rw [Bool.eq_iff_iff]
    simp only [subFlags, bit7_eq_toInt_neg, Bool.or_eq_true, Bool.and_eq_true, Bool.not_eq_true', decide_eq_true_eq,
      decide_eq_false_iff_not]
    omega
  exact ⟨hv, hv ▸ wrapped_sign_xor_overflow hmod (by omega) (by omega)⟩

/-! ### V and S of the state -/

/-- The state's V and S speak of the exact result `e` as its flag values do. -/
def State.signedFlags (t : State) (e : Int) : Prop :=
  t.flagV = decide (e < -128 ∨ 127 < e) ∧ t.flagS = decide (e < 0)

theorem signedFlags_of_speakOf {f : FlagValues} {e : Int} (h : f.speakOf e) (s : State) (n : PcAddr) :
    ((s.setHSVNZC f).advance n).signedFlags e := by
  simpa [State.signedFlags, FlagValues.speakOf] using h

theorem addInto_signedFlags {d : Reg} {a b : Byte} {cin : Bool} {s t : State} (h : addInto d a b cin s = .next t) :
    t.signedFlags (a.toInt + b.toInt + cin.toNat) := by
  cases h
  exact signedFlags_of_speakOf (addFlags_speakOf a b cin) _ _

theorem subInto_signedFlags {d : Reg} {a b : Byte} {cin keepZ : Bool} {s t : State}
    (h : subInto d a b cin keepZ s = .next t) : t.signedFlags (a.toInt - b.toInt - cin.toNat) := by
  cases h
  exact signedFlags_of_speakOf (subFlags_speakOf a b cin keepZ s.flagZ) _ _

theorem compareBytes_signedFlags {a b : Byte} {cin keepZ : Bool} {s t : State}
    (h : compareBytes a b cin keepZ s = .next t) : t.signedFlags (a.toInt - b.toInt - cin.toNat) := by
  cases h
  exact signedFlags_of_speakOf (subFlags_speakOf a b cin keepZ s.flagZ) _ _

/-! ### The obligation -/

/-- Settles O14: each of the ten is one of the three shared operations, without a carry in or with the old C. -/
theorem overflowAndSignFlagsAreSigned : Obligations.OverflowAndSignFlagsAreSigned := by
  intro s t d r k i e hmem h
  show t.signedFlags e
  simp only [List.mem_cons, List.not_mem_nil, or_false, Prod.mk.injEq] at hmem
  obtain ⟨rfl, rfl⟩ | ⟨rfl, rfl⟩ | ⟨rfl, rfl⟩ | ⟨rfl, rfl⟩ | ⟨rfl, rfl⟩ | ⟨rfl, rfl⟩ | ⟨rfl, rfl⟩ | ⟨rfl, rfl⟩ |
    ⟨rfl, rfl⟩ | ⟨rfl, rfl⟩ := hmem
  · simpa using addInto_signedFlags h -- ADD
  · exact addInto_signedFlags h -- ADC
  · simpa using subInto_signedFlags h -- SUB
  · simpa using subInto_signedFlags h -- SUBI
  · exact subInto_signedFlags h -- SBC
  · exact subInto_signedFlags h -- SBCI
  · simpa using subInto_signedFlags h -- NEG
  · simpa using compareBytes_signedFlags h -- CP
  · simpa using compareBytes_signedFlags h -- CPI
  · exact compareBytes_signedFlags h -- CPC

end Sys2Proof.Machine

/-! What instructions and steps leave alone of memory (R65, R71, R48, R80): a RAM byte but at the store addresses, program
memory, and the parameters. Each elementary update keeps them, so every instruction does; then O59 and O9. -/

namespace Sys2Proof.Machine

/-! ### RAM off the store addresses -/

/-- A store leaves every RAM byte but the one at its address (R65). -/
theorem State.ramByte_memWrite_other {s t : State} {a b : Word} {v : Byte} (hw : memWrite s a v = .next t) (hb : b ≠ a) :
    t.ramByte b = s.ramByte b := by
  obtain ⟨-, ⟨-, -, -, -, -, -, -, hother, -⟩, -⟩ := memWrite_eq_next hw
  exact hother b hb

theorem Update.keeps_ramByte {A : List Word} {e : Bool} {s t : State} {a : Word} (hu : Update A e s t) (ha : a ∉ A) :
    t.ramByte a = s.ramByte a := by
  cases hu with
  | store _ b _ hb hw => exact State.ramByte_memWrite_other hw fun hab => ha (hab ▸ hb)
  | _ => rfl

/-- Settles O59: an instruction is a sequence of updates that store at its store addresses only, and each keeps every other
RAM byte. -/
theorem onlyStoresChangeRam : Obligations.OnlyStoresChangeRam := fun _ s _ a h ha =>
  (exec_updates h).keep (P := fun u => u.ramByte a = s.ramByte a) (fun hu hs => (hu.keeps_ramByte ha).trans hs) rfl

/-! ### Program memory and the parameters -/

/-- Program memory and the parameters of `t` are those of `s`. -/
def State.sameProgram (s t : State) : Prop := t.flash = s.flash ∧ t.cfg = s.cfg

/-- No place of the data space is program memory or a parameter (R62, R80). -/
theorem sameProgram_memWrite {s t : State} {a : Word} {v : Byte} (hw : memWrite s a v = .next t) : s.sameProgram t := by
  unfold memWrite at hw
  cases hp : placeOf s.cfg a <;> rw [hp] at hw <;> cases hw
  all_goals exact ⟨rfl, rfl⟩

theorem Update.keeps_sameProgram {A : List Word} {e : Bool} {s t u : State} (hu : Update A e t u) (h : s.sameProgram t) :
    s.sameProgram u := by
  cases hu with
  | store _ _ _ _ hw =>
    obtain ⟨hflash, hcfg⟩ := sameProgram_memWrite hw
    exact ⟨hflash.trans h.1, hcfg.trans h.2⟩
  | _ => exact h

theorem sameProgram_of_updates {A : List Word} {e : Bool} {s t : State} (h : Updates A e s t) : s.sameProgram t :=
  h.keep Update.keeps_sameProgram ⟨rfl, rfl⟩

/-- Interrupt entry changes memory by the push of the pc alone (R316). -/
theorem sameProgram_takeInterrupt {src : IrqSource} {s t : State} (h : takeInterrupt src s = .next t) :
    s.sameProgram t := by
  obtain ⟨u, hpush, rfl⟩ := takeInterrupt_eq_next.1 h
  have hupdates : Updates (pushAddresses s s.pc) false s u := (Updates.refl s).pushPc (fun _ ha => ha) hpush
  exact sameProgram_of_updates (t := u) hupdates

/-- Settles O9: by the cases of a step. -/
theorem stepKeepsProgramMemory : Obligations.StepKeepsProgramMemory := by
  intro s t hstep
  obtain ⟨src, -, hirq⟩ | ⟨-, -, -, rfl⟩ | ⟨-, -, w, i, -, -, hexec⟩ := step_eq_next_cases hstep
  · exact sameProgram_takeInterrupt (s := s.passBoundary) hirq
  · exact ⟨rfl, rfl⟩
  · exact sameProgram_of_updates (s := { s.passBoundary with inhibit := false }) (exec_updates hexec)

end Sys2Proof.Machine

/-! The data address map by numbers, RAM read back, and the bit instructions on I/O locations (R62 to R64, R73, R75, R77, R270,
R271): O35, O44 and O27. -/

namespace Sys2Proof.Machine

/-! ### The map -/

/-- The register an address of the window names (R64). -/
theorem extractLsb'_zero_five (a : Word) : a.extractLsb' 0 5 = BitVec.ofNat 5 a.toNat := by
  apply BitVec.eq_of_toNat_eq
  simp

/-- Settles O35: `placeOf` asks in the statement's order, of the address where the statement asks of its number. -/
theorem dataAddressMap : Obligations.DataAddressMap := by
  intro c a
  simp only [placeOf, BitVec.lt_def, ← BitVec.toNat_inj, extractLsb'_zero_five, ite_or]
  rfl

/-! ### RAM -/

/-- A byte listed over another at the same address leaves what it alone would have left. -/
theorem Memory.put_put (m : Memory) (a : Nat) (v w : Byte) :
    Memory.put (Memory.put m a v) a w = Memory.put m a w := by
  induction m with
  | nil => simp [Memory.put]
  | cons c m ih =>
    obtain ⟨k, u⟩ := c
    by_cases hlt : a < k
    · simp [Memory.put, hlt]
    · by_cases heq : a = k
      · simp [Memory.put, heq]
      · simp [Memory.put, hlt, heq, ih]

/-- The last write of a RAM byte wins (R77). -/
theorem State.setRam_setRam (s : State) (a : Word) (v w : Byte) : (s.setRam a v).setRam a w = s.setRam a w := by
  simp [State.setRam, Memory.write, ramBlank, Memory.put_put]

theorem memWrite_ram {s : State} {a : Word} (v : Byte) (h : placeOf s.cfg a = .ram) :
    memWrite s a v = .next (s.setRam a v) := by
  simp [memWrite, h]

/-- A RAM byte that was written reads as that byte, and the read changes nothing (R73). -/
theorem memRead_ram {s : State} {a : Word} {v : Byte} (h : placeOf s.cfg a = .ram) (hv : s.ramByte a = some v) :
    memRead s a = .next (v, s) := by
  rw [memRead_eq_next, State.afterRead_of_not_platform (by simp [h])]
  simp [State.seen, h, hv]

/-- Settles O44: what a RAM write leaves, read and written again; and the read that takes no draw. -/
theorem ramReadsBackAsWritten : Obligations.RamReadsBackAsWritten := by
  refine fun s a v w => ⟨fun ha => ?write, fun t ha hr => ?read⟩
  case write =>
    have hread : (s.setRam a v).ramByte a = some v := by simp [State.ramByte_setRam]
    have hagain : memWrite (s.setRam a v) a w = .next (s.setRam a w) := by
      rw [memWrite_ram (s := s.setRam a v) w ha, State.setRam_setRam]
    exact ⟨s.setRam a v, s.setRam a w, memWrite_ram v ha, memRead_ram ha hread,
      fun b hb => by simp [State.ramByte_setRam, hb], s.wf_setRam a v, hagain, memWrite_ram w ha⟩
  case read =>
    obtain ⟨-, ht⟩ := (memRead_eq_next s a (v, t)).1 hr
    exact ht.trans (State.afterRead_of_not_platform ha)

/-! ### SBI and CBI -/

/-- The address of the bit instructions, by its number (R102). -/
theorem ioBitAddress_eq (a : BitVec 5) : ioBitAddress a = BitVec.ofNat 16 (a.toNat + 0x20) := by
  apply BitVec.eq_of_toNat_eq
  simp [ioBitAddress, ioBase]

/-- The 32 lowest I/O locations are the platform's, where they are implemented (R63). -/
theorem placeOf_ioBit {c : Config} {a : BitVec 5} (h : a.toNat + 0x20 ≤ c.dataTop.toNat) :
    placeOf c (BitVec.ofNat 16 (a.toNat + 0x20)) = .platform := by
  have ha := a.isLt
  have hn : (BitVec.ofNat 16 (a.toNat + 0x20)).toNat = a.toNat + 0x20 := Nat.mod_eq_of_lt (by omega)
  rw [dataAddressMap c, hn]
  repeat rw [if_neg (by omega)]
  exact if_pos (by omega)

/-- The state after the read and the write back of a platform location: one draw, two events (R63, log 22). -/
def State.afterIoBit (s : State) (a : Word) (v : Byte) : State :=
  (s.drawn.record (.ioRead a (Config.freeByte s.draws))).record (.ioWrite a v)

/-- The read and the write back go to one platform location (R270, R271). -/
theorem ioBit_of_platform {s : State} {a : BitVec 5} (b : BitVec 3) (x : Bool)
    (h : placeOf s.cfg (ioBitAddress a) = .platform) :
    ioBit a b x s =
      .next ((s.afterIoBit (ioBitAddress a) (withBit (Config.freeByte s.draws) b x)).advance 1#22) := by
  have hr : memRead s (ioBitAddress a) = .next (readPlatform s (ioBitAddress a)) := by simp [memRead, h]
  have hw (v : Byte) : memWrite (readPlatform s (ioBitAddress a)).2 (ioBitAddress a) v =
      .next (s.afterIoBit (ioBitAddress a) v) := by
    simp only [memWrite, readPlatform, State.record_cfg, State.drawn_cfg, h]
    rfl
  simp only [ioBit, hr, andThen_next, hw]
  rfl

/-- Settles O27: both are `ioBit`, at a location of the platform. -/
theorem ioBitReadModifyWrite : Obligations.IoBitReadModifyWrite := by
  intro s a b i x hmem hin
  have hexec : exec i s = ioBit a b x s := by
    simp only [List.mem_cons, List.not_mem_nil, or_false, Prod.mk.injEq] at hmem
    obtain ⟨rfl, rfl⟩ | ⟨rfl, rfl⟩ := hmem <;> rfl
  rw [hexec, ioBit_of_platform b x (ioBitAddress_eq a ▸ placeOf_ioBit hin), ioBitAddress_eq]
  refine ⟨_, withBit (Config.freeByte s.draws) b x, rfl, ?_, fun n hn => ?_, ?_, rfl, ?_, fun _ _ => rfl,
    fun _ _ => rfl, rfl, ⟨rfl, rfl, rfl⟩, ⟨rfl, rfl, rfl⟩, fun _ => rfl, fun _ => rfl⟩
  · simp [bitOf_withBit]
  · simp [bitOf_withBit, hn]
  · simp [State.afterIoBit]
  · exact State.advance_pcAfter _ 1#22

end Sys2Proof.Machine

/-! Calls and returns with the stack in RAM (R69, R220, R226 to R231): PushPC and PopPC followed by the jump, then O46 and
O47. -/

namespace Sys2Proof.Machine

/-! ### The targets of the calls -/

theorem pcRelative_toNat (s : State) (k : Int) :
    ((s.pcRelative k).toNat : Int) = ((s.pc.toNat : Int) + 1 + k) % (2 ^ s.cfg.pcBits : Nat) := by
  have hpos : ((2 ^ s.cfg.pcBits : Nat) : Int) ≠ 0 := by exact_mod_cast (Nat.two_pow_pos _).ne'
  have hlt : (((s.pc.toNat : Int) + 1 + k) % (2 ^ s.cfg.pcBits : Nat)) < 2 ^ 22 :=
    (Int.emod_lt_of_pos _ (by positivity)).trans_le
      (by exact_mod_cast Nat.le_of_dvd (by decide) (pow_pcBits_dvd s.cfg))
  have hnonneg := Int.emod_nonneg ((s.pc.toNat : Int) + 1 + k) hpos
  rw [State.pcRelative, BitVec.toNat_ofNat]
  omega

/-- The target of RCALL and RJMP, by its number (R222, R226). -/
theorem wrapPc_target12 (s : State) (k : BitVec 12) :
    ((wrapPc s.cfg (s.target12 k)).toNat : Int) = ((s.pc.toNat : Int) + 1 + k.toInt) % (2 ^ s.cfg.pcBits : Nat) := by
  rw [State.target12, wrapPc_relative, pcRelative_toNat, BitVec.toInt_signExtend_of_le (by decide)]

theorem plainZ_toNat (s : State) : s.plainZ.toNat = s.z.toNat :=
  BitVec.toNat_setWidth_of_le (by decide)

/-- The target of EICALL and EIJMP, by its number (R224). -/
theorem extendedZ_toNat (s : State) : s.extendedZ.toNat = s.eind.toNat % 64 * 65536 + s.z.toNat := by
  have hz := s.z.isLt
  rw [State.extendedZ, BitVec.toNat_append, ← Nat.shiftLeft_add_eq_or_of_lt hz, Nat.shiftLeft_eq]
  simp

theorem wrapPc_toNat_int (c : Config) (v : PcAddr) : ((wrapPc c v).toNat : Int) = (v.toNat : Int) % (2 ^ c.pcBits : Nat) := by
  rw [wrapPc_toNat, Int.natCast_emod]

/-- Each of the four calls is `callTo`, with its length and its target by their numbers (R226 to R229). -/
theorem exec_eq_callTo {s : State} {k12 : BitVec 12} {k22 : PcAddr} {i : Instr} {n : Nat} {target : Int}
    (h : (i, n, target) ∈
      [(Instr.rcall k12, 1, (s.pc.toNat : Int) + 1 + k12.toInt), (.icall, 1, (s.z.toNat : Int)),
       (.eicall, 1, ((s.eind.toNat % 64 * 65536 + s.z.toNat : Nat) : Int)), (.call k22, 2, (k22.toNat : Int))]) :
    ∃ words dest : PcAddr, exec i s = callTo words dest s ∧ words.toNat = n ∧
      ((wrapPc s.cfg dest).toNat : Int) = target % (2 ^ s.cfg.pcBits : Nat) := by
  simp only [List.mem_cons, List.not_mem_nil, or_false, Prod.mk.injEq] at h
  obtain ⟨rfl, rfl, rfl⟩ | ⟨rfl, rfl, rfl⟩ | ⟨rfl, rfl, rfl⟩ | ⟨rfl, rfl, rfl⟩ := h
  · exact ⟨1#22, s.target12 k12, rfl, rfl, wrapPc_target12 s k12⟩
  · exact ⟨1#22, s.plainZ, rfl, rfl, by rw [wrapPc_toNat_int, plainZ_toNat]⟩
  · exact ⟨1#22, s.extendedZ, rfl, rfl, by rw [wrapPc_toNat_int, extendedZ_toNat]⟩
  · exact ⟨2#22, k22, rfl, rfl, wrapPc_toNat_int s.cfg k22⟩

/-! ### Calls -/

/-- With room in RAM a call changes SP, RAM and the pc alone, as PushPC and the jump do (R69, R220). -/
theorem callTo_of_room {s : State} (words dest : PcAddr) (h : s.pushRoom) :
    ∃ sp ram, callTo words dest s = .next { s with sp := sp, ram := ram, pc := wrapPc s.cfg dest } ∧
      pushesReturn s { s with sp := sp, ram := ram } (s.pcAfter words.toNat) := by
  obtain ⟨u, hpush, hreturn, hrest⟩ := pushPc_of_room (s.returnAddress words) h
  generalize u.sp = sp, u.ram = ram at hrest
  subst hrest
  exact ⟨sp, ram, by rw [callTo, hpush]; rfl, wrapPc_add s words ▸ hreturn⟩

/-- Settles O46: each call is `callTo`, which has room. -/
theorem callsLeaveReturnAddressOnStack : Obligations.CallsLeaveReturnAddressOnStack := by
  intro s k12 k22 i n target hmem hroom
  obtain ⟨words, dest, hexec, rfl, hdest⟩ := exec_eq_callTo hmem
  obtain ⟨sp, ram, hcall, hreturn⟩ := callTo_of_room words dest hroom
  exact ⟨_, hexec.trans hcall, hdest, hreturn, fun _ _ => rfl, fun _ _ => rfl, ⟨rfl, rfl, rfl⟩, ⟨rfl, rfl, rfl⟩,
    fun _ => rfl, rfl, rfl⟩

/-! ### Returns -/

/-- RET and RETI go to the address PopPC makes of the three bytes; RETI then sets I (R230, R231). -/
theorem exec_ret_of_shows {s : State} {h m l : Byte} (hs : stackShows s h m l) :
    exec .ret s = .next ((s.setSp (s.sp + BitVec.ofNat 16 s.cfg.pcBytes)).setPc
      (wrapPc s.cfg (h.extractLsb' 0 6 ++ m ++ l))) := by
  simp only [exec, execRet, popPc_of_shows hs, andThen_next]

/-- The OR with 0x80 of R319 is bit 7 made 1. -/
theorem exec_reti_of_shows {s : State} {h m l : Byte} (hs : stackShows s h m l) :
    exec .reti s = .next (((s.setSp (s.sp + BitVec.ofNat 16 s.cfg.pcBytes)).setPc
      (wrapPc s.cfg (h.extractLsb' 0 6 ++ m ++ l))).writeSreg (withBit s.sreg 7#3 true)) := by
  simp only [exec, execReti, returnFromInterrupt, popPc_of_shows hs, andThen_next]
  rfl

/-- The address PopPC makes is within 2^PC_BITS, so that writing it to the pc reduces it no further (R36, R69). -/
theorem wrapPc_popped_toNat (c : Config) (h m l : Byte) :
    (wrapPc c (wrapPc c (h.extractLsb' 0 6 ++ m ++ l))).toNat =
      (h.toNat * 65536 + m.toNat * 256 + l.toNat) % 2 ^ c.pcBits := by
  rw [wrapPc_toNat, Nat.mod_eq_of_lt (wrapPc_lt c _), popped_toNat]

/-- Settles O47: RET by the state PopPC leaves, RETI by the set of I over it. -/
theorem returnsPopThePc : Obligations.ReturnsPopThePc := by
  intro s h m l i interrupt hmem hs
  simp only [List.mem_cons, List.not_mem_nil, or_false, Prod.mk.injEq] at hmem
  have hpc := wrapPc_popped_toNat s.cfg h m l
  obtain ⟨rfl, rfl⟩ | ⟨rfl, rfl⟩ := hmem
  case inl =>
    exact ⟨_, exec_ret_of_shows hs, hpc, rfl, fun _ _ => rfl, by simp, by simp, rfl, rfl, fun _ _ => rfl,
      ⟨rfl, rfl, rfl⟩, fun _ => rfl, fun _ => rfl, rfl, rfl⟩
  case inr =>
    have hbit (n : BitVec 3) : bitOf (withBit s.sreg 7#3 true) n = if n = 7#3 then true else bitOf s.sreg n :=
      bitOf_withBit s.sreg 7#3 n true
    have hI : (withBit s.sreg 7#3 true).getLsbD 7 = true := hbit 7#3
    refine ⟨_, exec_reti_of_shows hs, hpc, rfl, fun n hn => ?_, ?_, ?_, rfl, rfl, fun _ _ => rfl,
      ⟨rfl, rfl, rfl⟩, fun _ => rfl, fun _ => rfl, rfl, rfl⟩
    · exact (hbit n).trans (if_neg (by simpa using hn))
    · simpa [State.flagI] using hI
    · simp only [State.writeSreg_inhibit, hI, Bool.and_true, Bool.true_and]
      rfl

end Sys2Proof.Machine

/-! Where data accesses stop (R47, R64, R75, R311): each access operation stops at its own addresses, an operation that begins
with it stops there too, and so does every instruction that gets as far as its accesses; then O57. -/

namespace Sys2Proof.Machine

/-! ### What it is to stop at an address -/

/-- `x`, begun in the state `s`, stops as an access of `a` must: above `DATA_TOP` it faults, in the absent register window it is
refused (R64, R75). -/
structure StopsOutside {α : Type} (s : State) (a : Word) (x : Result α) : Prop where
  above : s.cfg.dataTop.toNat < a.toNat → x = .fault (.dataOutside a)
  absent : s.inAbsentWindow a → x = .refused .dataBelow0x20

/-- `x` stops as a read of `a` must: also at an unwritten RAM byte under `UNWRITTEN_READ` = fault (R47). -/
structure StopsRead {α : Type} (s : State) (a : Word) (x : Result α) : Prop extends StopsOutside s a x where
  unwritten : s.unreadable a → x = .fault (.unwrittenRead a)

/-- What stops goes no further. -/
theorem StopsOutside.andThen {α β : Type} {s : State} {a : Word} {x : Result α} (h : StopsOutside s a x)
    (f : α → Result β) : StopsOutside s a (andThen x f) where
  above ha := by rw [h.above ha, andThen_fault]
  absent ha := by rw [h.absent ha, andThen_refused]

theorem StopsRead.andThen {α β : Type} {s : State} {a : Word} {x : Result α} (h : StopsRead s a x) (f : α → Result β) :
    StopsRead s a (andThen x f) where
  toStopsOutside := h.toStopsOutside.andThen f
  unwritten ha := by rw [h.unwritten ha, andThen_fault]

/-! ### The access operations -/

/-- A read in a state with the parameters and the RAM of `s` stops where a read in `s` must. -/
theorem memRead_stops {s u : State} (a : Word) (hcfg : u.cfg = s.cfg) (hram : u.ram = s.ram) :
    StopsRead s a (memRead u a) where
  above ha := (memRead_eq_fault u a _).2 (.inl ⟨rfl, (placeOf_eq_outside_toNat u.cfg a).2 (hcfg ▸ ha)⟩)
  absent ha := (memRead_eq_refused u a _).2 ⟨rfl, hcfg ▸ (placeOf_eq_noWindow_iff s a).2 ha⟩
  unwritten := fun ⟨hfault, hplace, hbyte⟩ =>
    (memRead_eq_fault u a _).2 (.inr ⟨rfl, hcfg ▸ hplace, by rwa [State.ramByte, hram], hcfg ▸ hfault⟩)

/-- A write in a state with the parameters of `s` stops where an access in `s` must. -/
theorem memWrite_stops {s u : State} (a : Word) (v : Byte) (hcfg : u.cfg = s.cfg) : StopsOutside s a (memWrite u a v) where
  above ha := (memWrite_eq_fault u a v _).2 ⟨rfl, (placeOf_eq_outside_toNat u.cfg a).2 (hcfg ▸ ha)⟩
  absent ha := (memWrite_eq_refused u a v _).2 ⟨rfl, hcfg ▸ (placeOf_eq_noWindow_iff s a).2 ha⟩

theorem push8_stops (s : State) (v : Byte) : StopsOutside s s.sp (push8 s v) := (memWrite_stops _ _ rfl).andThen _

/-- A pop reads after SP has moved, which no stop depends on (R13). -/
theorem pop8_stops (s : State) : StopsRead s (s.sp + 1#16) (pop8 s) := memRead_stops _ (s.setSp_cfg ..) (s.setSp_ram ..)

theorem pushPc_stops {s : State} {ret : PcAddr} {a : Word} (ha : a ∈ pushAddresses s ret) :
    StopsOutside s a (pushPc s ret) where
  above hout := (pushPc_eq_fault s ret _).2 ⟨a, ha, rfl, (placeOf_eq_outside_toNat s.cfg a).2 hout⟩
  absent hwin := (pushPc_eq_refused s ret _).2 ⟨rfl, a, ha, (placeOf_eq_noWindow_iff s a).2 hwin⟩

theorem popPc_stops {s : State} {a : Word} (ha : a ∈ popAddresses s) : StopsRead s a (popPc s) where
  above hout := (popPc_eq_fault s _).2 ⟨a, ha, .inl ⟨rfl, (placeOf_eq_outside_toNat s.cfg a).2 hout⟩⟩
  absent hwin := (popPc_eq_refused s _).2 ⟨a, ha, rfl, (placeOf_eq_noWindow_iff s a).2 hwin⟩
  unwritten hun := (popPc_eq_fault s _).2 ⟨a, ha, .inr ⟨rfl, hun⟩⟩

/-! ### The operand forms -/

/-- An indirect instruction that reaches its access passes the checks before it (R170, R195, R321). -/
theorem checkPointer_of_reachesAccess {i : Instr} {p : Pointer} {r : Reg} {s : State} (h : reachesAccess i s)
    (hi : indirectOperand i = some (p, r)) : checkPointer p r s = .next s := by
  obtain ⟨hhazard, hxy, -⟩ := h
  have hholds : pointerHazard i = p.holds r := by
    rw [pointerHazard, hi]
    rfl
  refine checkPointer_ok ?_ (hholds ▸ hhazard)
  cases p with
  | z => exact .inr rfl
  | _ => exact .inl (hxy (by simp [needsXY, hi]))

theorem loadByte_stops {s u : State} (d : Reg) (a : Word) (hcfg : u.cfg = s.cfg) (hram : u.ram = s.ram) :
    StopsRead s a (loadByte d a u) := (memRead_stops a hcfg hram).andThen _

theorem loadDisplaced_stops {p : Pointer} {d : Reg} {q : BitVec 6} {s : State} (h : checkPointer p d s = .next s) :
    StopsRead s (s.pointer p + q.setWidth 16) (loadDisplaced p d q s) := by
  rw [loadDisplaced, h, andThen_next]
  exact (loadByte_stops d _ rfl rfl).andThen _

theorem loadIncrement_stops {p : Pointer} {d : Reg} {s : State} (h : checkPointer p d s = .next s) :
    StopsRead s (s.pointer p) (loadIncrement p d s) := by
  rw [loadIncrement, h, andThen_next]
  exact (loadByte_stops d _ rfl rfl).andThen _

theorem loadDecrement_stops {p : Pointer} {d : Reg} {s : State} (h : checkPointer p d s = .next s) :
    StopsRead s (s.pointer p - 1#16) (loadDecrement p d s) := by
  rw [loadDecrement, h, andThen_next]
  exact (loadByte_stops d _ (s.setPair_cfg ..) (s.setPair_ram ..)).andThen _

theorem storeDisplaced_stops {p : Pointer} {r : Reg} {q : BitVec 6} {s : State} (h : checkPointer p r s = .next s) :
    StopsOutside s (s.pointer p + q.setWidth 16) (storeDisplaced p q r s) := by
  rw [storeDisplaced, h, andThen_next]
  exact (memWrite_stops _ _ rfl).andThen _

theorem storeIncrement_stops {p : Pointer} {r : Reg} {s : State} (h : checkPointer p r s = .next s) :
    StopsOutside s (s.pointer p) (storeIncrement p r s) := by
  rw [storeIncrement, h, andThen_next]
  exact (memWrite_stops _ _ rfl).andThen _

theorem storeDecrement_stops {p : Pointer} {r : Reg} {s : State} (h : checkPointer p r s = .next s) :
    StopsOutside s (s.pointer p - 1#16) (storeDecrement p r s) := by
  rw [storeDecrement, h, andThen_next]
  exact (memWrite_stops _ _ (s.setPair_cfg ..)).andThen _

/-- The plain form of a load is the one with displacement 0 (R175). -/
theorem loadPlain_stops {p : Pointer} {d : Reg} {s : State} (h : checkPointer p d s = .next s) :
    StopsRead s (s.pointer p) (loadDisplaced p d 0#6 s) := by
  simpa using loadDisplaced_stops (q := 0#6) h

/-- The plain form of a store is the one with displacement 0 (R180). -/
theorem storePlain_stops {p : Pointer} {r : Reg} {s : State} (h : checkPointer p r s = .next s) :
    StopsOutside s (s.pointer p) (storeDisplaced p 0#6 r s) := by
  simpa using storeDisplaced_stops (q := 0#6) h

theorem ioBit_stops (a : BitVec 5) (b : BitVec 3) (x : Bool) (s : State) :
    StopsRead s (ioBitAddress a) (ioBit a b x s) := (memRead_stops _ rfl rfl).andThen _

theorem callTo_stops {n target : PcAddr} {s : State} {a : Word} (ha : a ∈ pushAddresses s (s.returnAddress n)) :
    StopsOutside s a (callTo n target s) := (pushPc_stops ha).andThen _

/-! ### The instructions -/

/-- An instruction that gets as far as its accesses stops at the addresses it reads (R71, R311). -/
theorem exec_stops_at_loads {i : Instr} {s : State} (h : reachesAccess i s) :
    ∀ a ∈ loadAddresses i s, StopsRead s a (exec i s) := by
  have hcheck {p : Pointer} {r : Reg} : indirectOperand i = some (p, r) → checkPointer p r s = .next s :=
    checkPointer_of_reachesAccess h
  cases i
  case ldX | ldY | ldZ => exact List.forall_mem_singleton.2 (loadPlain_stops (hcheck rfl))
  case lddY | lddZ => exact List.forall_mem_singleton.2 (loadDisplaced_stops (hcheck rfl))
  case ldXInc | ldYInc | ldZInc => exact List.forall_mem_singleton.2 (loadIncrement_stops (hcheck rfl))
  case ldXDec | ldYDec | ldZDec => exact List.forall_mem_singleton.2 (loadDecrement_stops (hcheck rfl))
  case lds | ioIn => exact List.forall_mem_singleton.2 ((loadByte_stops _ _ rfl rfl).andThen _)
  case sbic | sbis => exact List.forall_mem_singleton.2 ((memRead_stops _ rfl rfl).andThen _)
  case sbi a b => exact List.forall_mem_singleton.2 (ioBit_stops a b true s)
  case cbi a b => exact List.forall_mem_singleton.2 (ioBit_stops a b false s)
  case pop => exact List.forall_mem_singleton.2 ((pop8_stops s).andThen _)
  case ret | reti => exact fun _ ha => (popPc_stops ha).andThen _
  all_goals exact List.forall_mem_nil _

/-- An instruction that gets as far as its accesses stops at the addresses it stores to; SBI and CBI, which read theirs first,
at that read (R71, R311). -/
theorem exec_stops_at_stores {i : Instr} {s : State} (h : reachesAccess i s) :
    ∀ a ∈ storeAddresses i s, StopsOutside s a (exec i s) := by
  have hcheck {p : Pointer} {r : Reg} : indirectOperand i = some (p, r) → checkPointer p r s = .next s :=
    checkPointer_of_reachesAccess h
  cases i
  case stX | stY | stZ => exact List.forall_mem_singleton.2 (storePlain_stops (hcheck rfl))
  case stdY | stdZ => exact List.forall_mem_singleton.2 (storeDisplaced_stops (hcheck rfl))
  case stXInc | stYInc | stZInc => exact List.forall_mem_singleton.2 (storeIncrement_stops (hcheck rfl))
  case stXDec | stYDec | stZDec => exact List.forall_mem_singleton.2 (storeDecrement_stops (hcheck rfl))
  case sts | ioOut => exact List.forall_mem_singleton.2 ((memWrite_stops _ _ rfl).andThen _)
  case sbi a b => exact List.forall_mem_singleton.2 (ioBit_stops a b true s).toStopsOutside
  case cbi a b => exact List.forall_mem_singleton.2 (ioBit_stops a b false s).toStopsOutside
  case push => exact List.forall_mem_singleton.2 ((push8_stops s _).andThen _)
  case rcall | icall | eicall | call => exact fun _ ha => callTo_stops ha
  all_goals exact List.forall_mem_nil _

/-- An interrupt entry stops at its pushes (R316). -/
theorem takeInterrupt_stops {src : IrqSource} {s : State} {a : Word} (ha : a ∈ pushAddresses s s.pc) :
    StopsOutside s a (takeInterrupt src s) := (pushPc_stops ha).andThen _

/-- Settles O57: an instruction stops at each address it reads or stores to, an interrupt entry at each it pushes to. -/
theorem accessesOutsideStop : Obligations.AccessesOutsideStop := by
  refine fun i s a src => ⟨fun hreach ha => ?access, fun hreach ha => ?unwritten, fun ha => ?entry⟩
  case access =>
    have hstops : StopsOutside s a (exec i s) := by
      obtain hload | hstore := ha
      · exact (exec_stops_at_loads hreach a hload).toStopsOutside
      · exact exec_stops_at_stores hreach a hstore
    exact ⟨hstops.above, hstops.absent⟩
  case unwritten => exact (exec_stops_at_loads hreach a ha).unwritten
  case entry =>
    have hstops : StopsOutside s a (takeInterrupt src s) := takeInterrupt_stops ha
    exact ⟨hstops.above, hstops.absent⟩

end Sys2Proof.Machine

/-! Eight-bit additions, subtractions and comparisons (R130, R131, R134 to R140, R148, R233 to R235): the flag values in the
forms of the rules, what the three shared operations leave of a state, then O12, O13, O15 and O17. -/

namespace Sys2Proof.Machine

/-! ### The flag values in the forms of the rules -/

/-- The zero test of a result, by its number (R7). -/
theorem beq_zero_eq_decide_toNat {w : Nat} (v : BitVec w) : (v == 0#w) = decide (v.toNat = 0) := by
  rw [Bool.eq_iff_iff, beq_iff_eq, decide_eq_true_iff, ← BitVec.toNat_inj, BitVec.toNat_ofNat, Nat.zero_mod]

/-- The carry out of bit 7 in the Boolean form of R130. -/
theorem addFlags_c_boolean (a b : Byte) (cin : Bool) :
    (addFlags a b cin).c = ((bit7 a && bit7 b) || (bit7 b && !bit7 (addResult a b cin)) ||
      (!bit7 (addResult a b cin) && bit7 a)) := by
  have ha := a.isLt
  have hb := b.isLt
  have hc := cin.toNat_le
  rw [Bool.eq_iff_iff]
  simp only [addFlags, bit7_eq_ge, addResult_toNat, Bool.or_eq_true, Bool.and_eq_true, Bool.not_eq_true',
    decide_eq_true_eq, decide_eq_false_iff_not]
  omega

/-- The carry out of bit 3 in the Boolean form of R130. -/
theorem addFlags_h_boolean (a b : Byte) (cin : Bool) :
    (addFlags a b cin).h = ((bitOf a 3#3 && bitOf b 3#3) || (bitOf b 3#3 && !bitOf (addResult a b cin) 3#3) ||
      (!bitOf (addResult a b cin) 3#3 && bitOf a 3#3)) := by
  have hc := cin.toNat_le
  rw [Bool.eq_iff_iff]
  simp only [addFlags, bitOf_three_eq_ge, addResult_toNat, Bool.or_eq_true, Bool.and_eq_true, Bool.not_eq_true',
    decide_eq_true_eq, decide_eq_false_iff_not]
  omega

/-- The difference as the number of R131 wrapped to a byte. -/
theorem subResult_eq_ofInt (a b : Byte) (cin : Bool) :
    subResult a b cin = BitVec.ofInt 8 ((a.toNat : Int) - b.toNat - cin.toNat) := by
  have hb := b.isLt
  have hc := cin.toNat_le
  apply BitVec.eq_of_toNat_eq
  rw [subResult_toNat, BitVec.toNat_ofInt]
  omega

/-- The borrow into bit 7 in the Boolean form of R131. -/
theorem subFlags_c_boolean (a b : Byte) (cin keepZ oldZ : Bool) :
    (subFlags a b cin keepZ oldZ).c = ((!bit7 a && bit7 b) || (bit7 b && bit7 (subResult a b cin)) ||
      (bit7 (subResult a b cin) && !bit7 a)) := by
  have ha := a.isLt
  have hb := b.isLt
  have hc := cin.toNat_le
  rw [Bool.eq_iff_iff]
  simp only [subFlags, bit7_eq_ge, subResult_toNat, Bool.or_eq_true, Bool.and_eq_true, Bool.not_eq_true',
    decide_eq_true_eq, decide_eq_false_iff_not]
  omega

/-- The borrow into bit 3 in the Boolean form of R131. -/
theorem subFlags_h_boolean (a b : Byte) (cin keepZ oldZ : Bool) :
    (subFlags a b cin keepZ oldZ).h = ((!bitOf a 3#3 && bitOf b 3#3) || (bitOf b 3#3 && bitOf (subResult a b cin) 3#3) ||
      (bitOf (subResult a b cin) 3#3 && !bitOf a 3#3)) := by
  have hb := b.isLt
  have hc := cin.toNat_le
  rw [Bool.eq_iff_iff]
  simp only [subFlags, bitOf_three_eq_ge, subResult_toNat, Bool.or_eq_true, Bool.and_eq_true, Bool.not_eq_true',
    decide_eq_true_eq, decide_eq_false_iff_not]
  omega

theorem subFlags_z (a b : Byte) (cin keepZ oldZ : Bool) :
    (subFlags a b cin keepZ oldZ).z = (decide ((subResult a b cin).toNat = 0) && (!keepZ || oldZ)) := by
  rw [← beq_zero_eq_decide_toNat]
  rfl

/-! ### What the shared operations leave -/

/-- C, Z, N and V are those of `f`, and S is N xor V (R130, R131, R133). -/
structure State.ShowsFlags (t : State) (f : FlagValues) : Prop where
  flagC : t.flagC = f.c
  flagZ : t.flagZ = f.z
  flagN : t.flagN = f.n
  flagV : t.flagV = f.v
  flagS : t.flagS = (t.flagN ^^ t.flagV)

theorem showsFlags_setHSVNZC (u : State) (f : FlagValues) (n : PcAddr) :
    ((u.setHSVNZC f).advance n).ShowsFlags f := by
  constructor <;> simp

/-- What an 8-bit addition, subtraction or comparison leaves of `s`, the bytes in its registers `written` apart: the six
flags of `f`, the next pc, everything else as before (R130, R131). -/
structure ByteArithmetic (s t : State) (written : List Reg) (f : FlagValues) : Prop extends t.ShowsFlags f where
  flagH : t.flagH = f.h
  pc : t.pc = s.pcAfter 1
  rest : keepsRest s t written [0#3, 1#3, 2#3, 3#3, 4#3, 5#3]

/-- Every register but those written is as before. -/
theorem ByteArithmetic.reg_eq {s t : State} {written : List Reg} {f : FlagValues} (h : ByteArithmetic s t written f)
    {r : Reg} (hr : r ∉ written) : t.reg r = s.reg r := by
  obtain ⟨hregs, -⟩ := h.rest
  exact hregs r hr

theorem addInto_leaves {d : Reg} {a b : Byte} {cin : Bool} {s t : State} (h : addInto d a b cin s = .next t) :
    t.reg d = addResult a b cin ∧ ByteArithmetic s t [d] (addFlags a b cin) := by
  cases h
  exact ⟨by simp, showsFlags_setHSVNZC .., by simp, State.advance_pcAfter _ 1#22,
    keepsRest_compute 1#22 (keepsRest_setReg ..) (keepsRest_setHSVNZC ..)⟩

theorem subInto_leaves {d : Reg} {a b : Byte} {cin keepZ : Bool} {s t : State}
    (h : subInto d a b cin keepZ s = .next t) :
    t.reg d = subResult a b cin ∧ ByteArithmetic s t [d] (subFlags a b cin keepZ s.flagZ) := by
  cases h
  exact ⟨by simp, showsFlags_setHSVNZC .., by simp, State.advance_pcAfter _ 1#22,
    keepsRest_compute 1#22 (keepsRest_setReg ..) (keepsRest_setHSVNZC ..)⟩

theorem compareBytes_leaves {a b : Byte} {cin keepZ : Bool} {s t : State}
    (h : compareBytes a b cin keepZ s = .next t) :
    ByteArithmetic s t [] (subFlags a b cin keepZ s.flagZ) := by
  cases h
  exact ⟨showsFlags_setHSVNZC .., by simp, State.advance_pcAfter _ 1#22,
    keepsRest_trans (keepsRest_setHSVNZC ..) (keepsRest_advance _ 1#22)⟩

/-! ### Addition -/

/-- Settles O12: the four are one operation, whose flag values have both forms. -/
theorem additionWritesSumAndFlags : Obligations.AdditionWritesSumAndFlags := by
  intro s d r i b cin hmem
  have hexec : exec i s = addInto d (s.reg d) b cin s := by
    simp only [List.mem_cons, List.not_mem_nil, or_false, Prod.mk.injEq] at hmem
    obtain ⟨rfl, rfl, rfl⟩ | ⟨rfl, rfl, rfl⟩ | ⟨rfl, rfl, rfl⟩ | ⟨rfl, rfl, rfl⟩ := hmem <;> rfl
  obtain ⟨t, ht⟩ : ∃ t, addInto d (s.reg d) b cin s = .next t := ⟨_, rfl⟩
  obtain ⟨hreg, h⟩ := addInto_leaves ht
  refine ⟨t, hexec.trans ht, ?_⟩
  rw [hreg]
  exact ⟨addResult_toNat .., h.flagC, h.flagC.trans (addFlags_c_boolean ..), h.flagH,
    h.flagH.trans (addFlags_h_boolean ..), h.flagN, h.flagV, h.flagZ.trans (beq_zero_eq_decide_toNat _), h.flagS, h.pc,
    h.rest⟩

/-! ### Subtraction and comparison -/

/-- A subtraction writes its difference to one register, a comparison none; their flags are the same (R131). -/
theorem subtraction_or_comparison {x : Result State} {s : State} {d : Reg} {written : List Reg} {a b : Byte}
    {cin keepZ : Bool}
    (h : x = subInto d a b cin keepZ s ∧ written = [d] ∨ x = compareBytes a b cin keepZ s ∧ written = []) :
    ∃ t, x = .next t ∧ (d ∈ written → t.reg d = subResult a b cin) ∧
      ByteArithmetic s t written (subFlags a b cin keepZ s.flagZ) := by
  obtain ⟨rfl, rfl⟩ | ⟨rfl, rfl⟩ := h
  · obtain ⟨hreg, hleaves⟩ := subInto_leaves (d := d) (a := a) (b := b) (cin := cin) (keepZ := keepZ) (s := s) rfl
    exact ⟨_, rfl, fun _ => hreg, hleaves⟩
  · exact ⟨_, rfl, fun hd => absurd hd List.not_mem_nil, compareBytes_leaves rfl⟩

/-- Settles O13: each of the eight is the subtraction or the comparison, whose flag values have both forms. -/
theorem subtractionWritesDifferenceAndFlags : Obligations.SubtractionWritesDifferenceAndFlags := by
  intro s d r k i written a b cin keepZ hmem _
  have hexec : exec i s = subInto d a b cin keepZ s ∧ written = [d] ∨
      exec i s = compareBytes a b cin keepZ s ∧ written = [] := by
    simp only [List.mem_cons, List.not_mem_nil, or_false, Prod.mk.injEq] at hmem
    rcases hmem with h | h | h | h | h | h | h | h <;> obtain ⟨rfl, rfl, rfl, rfl, rfl, rfl⟩ := h
    iterate 5 exact .inl ⟨rfl, rfl⟩ -- SUB, SUBI, SBC, SBCI, NEG
    all_goals exact .inr ⟨rfl, rfl⟩ -- CP, CPC, CPI
  obtain ⟨t, ht, hreg, h⟩ := subtraction_or_comparison hexec
  refine ⟨t, ht, ?_⟩
  rw [← subResult_eq_ofInt]
  exact ⟨hreg, h.flagC, h.flagC.trans (subFlags_c_boolean ..), h.flagH, h.flagH.trans (subFlags_h_boolean ..), h.flagN,
    h.flagV, h.flagZ.trans (subFlags_z ..), h.flagS, h.pc, h.rest⟩

/-! ### NEG -/

/-- There is a borrow from 0 unless nothing is taken away (R148). -/
theorem subFlags_zero_sub_c (b : Byte) (oldZ : Bool) :
    (subFlags 0#8 b false false oldZ).c = decide (subResult 0#8 b false ≠ 0#8) := by
  have hb := b.isLt
  simp only [subFlags, ne_eq, ← BitVec.toNat_inj, subResult_toNat, BitVec.toNat_ofNat, Bool.toNat_false,
    decide_eq_decide]
  omega

/-- The one byte whose negation overflows is -128, which it leaves as it is (R148). -/
theorem subFlags_zero_sub_v (b : Byte) (oldZ : Bool) :
    (subFlags 0#8 b false false oldZ).v = decide (subResult 0#8 b false = 0x80#8) := by
  have hb := b.isLt
  rw [Bool.eq_iff_iff]
  simp only [subFlags, bit7_eq_ge, ← BitVec.toNat_inj, subResult_toNat, BitVec.toNat_ofNat, Bool.toNat_false,
    Bool.or_eq_true, Bool.and_eq_true, Bool.not_eq_true', decide_eq_true_eq, decide_eq_false_iff_not]
  omega

/-- There is a borrow from the low digit 0 unless the digit taken away is 0 (R148). -/
theorem subFlags_zero_sub_h (b : Byte) (oldZ : Bool) :
    (subFlags 0#8 b false false oldZ).h = (bitOf (subResult 0#8 b false) 3#3 || bitOf b 3#3) := by
  have hb := b.isLt
  rw [Bool.eq_iff_iff]
  simp only [subFlags, bitOf_three_eq_ge, subResult_toNat, BitVec.toNat_ofNat, Bool.toNat_false, Bool.or_eq_true,
    decide_eq_true_eq]
  omega

/-- Settles O15: NEG is the subtraction from 0, whose flag values reduce. -/
theorem negateFlagsReduce : Obligations.NegateFlagsReduce := by
  intro s d
  obtain ⟨t, ht⟩ : ∃ t, subInto d 0#8 (s.reg d) false false s = .next t := ⟨_, rfl⟩
  obtain ⟨hreg, h⟩ := subInto_leaves ht
  refine ⟨t, ht, ?_⟩
  rw [hreg]
  refine ⟨h.flagC.trans (subFlags_zero_sub_c ..), h.flagV.trans (subFlags_zero_sub_v ..),
    h.flagH.trans (subFlags_zero_sub_h ..), h.flagN, ?_, h.flagS⟩
  simpa [subFlags, beq_eq_decide] using h.flagZ

/-! ### Two-byte chains -/

/-- A carry or borrow as the number the next instruction takes in (R130, R131). -/
theorem toNat_decide (p : Prop) [Decidable p] : (decide p).toNat = if p then 1 else 0 := by
  by_cases h : p <;> simp [h]

/-- The high addition takes in the carry of the low one (R135). -/
theorem addResult_chain (a b a1 b1 : Byte) :
    (addResult a1 b1 (addFlags a b false).c).toNat * 256 + (addResult a b false).toNat =
      (a1.toNat * 256 + a.toNat + (b1.toNat * 256 + b.toNat)) % 65536 := by
  have ha := a.isLt
  have hb := b.isLt
  simp only [addResult_toNat, addFlags, Bool.toNat_false, toNat_decide]
  split <;> omega

theorem addFlags_chain_c (a b a1 b1 : Byte) :
    (addFlags a1 b1 (addFlags a b false).c).c =
      decide (65536 ≤ a1.toNat * 256 + a.toNat + (b1.toNat * 256 + b.toNat)) := by
  have ha := a.isLt
  have hb := b.isLt
  simp only [addFlags, Bool.toNat_false, toNat_decide, decide_eq_decide]
  split <;> omega

/-- The high subtraction takes in the borrow of the low one (R139, R140). -/
theorem subResult_chain (a b a1 b1 : Byte) (oldZ : Bool) :
    (((subResult a1 b1 (subFlags a b false false oldZ).c).toNat * 256 + (subResult a b false).toNat : Nat) : Int) =
      (((a1.toNat * 256 + a.toNat : Nat) : Int) - (b1.toNat * 256 + b.toNat : Nat)) % 65536 := by
  have ha := a.isLt
  have hb := b.isLt
  have ha1 := a1.isLt
  have hb1 := b1.isLt
  simp only [subResult_toNat, subFlags, Bool.toNat_false, toNat_decide]
  split <;> omega

theorem subFlags_chain_c (a b a1 b1 : Byte) (oldZ lowZ : Bool) :
    (subFlags a1 b1 (subFlags a b false false oldZ).c true lowZ).c =
      decide (a1.toNat * 256 + a.toNat < b1.toNat * 256 + b.toNat) := by
  have ha := a.isLt
  have hb := b.isLt
  simp only [subFlags, Bool.toNat_false, toNat_decide, decide_eq_decide]
  split <;> omega

/-- Z is kept from the low difference, so that it speaks of both bytes (R131). -/
theorem subFlags_chain_z (a b a1 b1 : Byte) (oldZ : Bool) :
    (subFlags a1 b1 (subFlags a b false false oldZ).c true (subFlags a b false false oldZ).z).z =
      decide (a1.toNat * 256 + a.toNat = b1.toNat * 256 + b.toNat) := by
  have ha := a.isLt
  have hb := b.isLt
  have ha1 := a1.isLt
  have hb1 := b1.isLt
  rw [subFlags_z, subFlags_z, Bool.eq_iff_iff]
  simp only [subResult_toNat, subFlags, Bool.toNat_false, toNat_decide, Bool.not_true, Bool.not_false,
    Bool.false_or, Bool.true_or, Bool.and_true, Bool.and_eq_true, decide_eq_true_eq]
  split <;> omega

/-- Two subtractions in a chain are the 16-bit one, on the bytes `a1:a` and `b1:b` (R139, R140). -/
theorem subInto_chain {s t u : State} {d d1 : Reg} {a b a1 b1 : Byte} (hd : d1 ≠ d)
    (hlow : subInto d a b false false s = .next t) (hhigh : subInto d1 a1 b1 t.flagC true t = .next u) :
    (((u.reg d1).toNat * 256 + (u.reg d).toNat : Nat) : Int) =
      (((a1.toNat * 256 + a.toNat : Nat) : Int) - (b1.toNat * 256 + b.toNat : Nat)) % 65536 ∧
    u.flagC = decide (a1.toNat * 256 + a.toNat < b1.toNat * 256 + b.toNat) ∧
    u.flagZ = decide (a1.toNat * 256 + a.toNat = b1.toNat * 256 + b.toNat) := by
  obtain ⟨hregd, hlow⟩ := subInto_leaves hlow
  obtain ⟨hregd1, hhigh⟩ := subInto_leaves hhigh
  have hkept : u.reg d = t.reg d := hhigh.reg_eq (by simpa using hd.symm)
  rw [hregd1, hkept, hregd, hhigh.flagC, hhigh.flagZ, hlow.flagC, hlow.flagZ]
  exact ⟨subResult_chain .., subFlags_chain_c .., subFlags_chain_z ..⟩

/-- Settles O17: the second instruction of a chain reads the bytes the first left alone, and the carry it left. -/
theorem twoByteArithmeticChains : Obligations.TwoByteArithmeticChains := by
  intro s t u d r d1 r1 k k1 x y c
  refine ⟨fun hd hr hlow hhigh => ?add, fun hd hr hlow hhigh => ?sub, fun hd hlow hhigh => ?subi,
    fun hlow hhigh => ?compare⟩
  case add =>
    change addInto d1 (t.reg d1) (t.reg r1) t.flagC t = .next u at hhigh
    obtain ⟨hregd, hlow⟩ := addInto_leaves hlow
    obtain ⟨hregd1, hhigh⟩ := addInto_leaves hhigh
    have hkept : u.reg d = t.reg d := hhigh.reg_eq (by simpa using hd.symm)
    rw [hregd1, hkept, hregd, hhigh.flagC, hlow.flagC, hlow.reg_eq (by simpa using hd), hlow.reg_eq (by simpa using hr)]
    exact ⟨addResult_chain .., addFlags_chain_c ..⟩
  case sub =>
    obtain ⟨-, hleaves⟩ := subInto_leaves hlow
    change subInto d1 (t.reg d1) (t.reg r1) t.flagC true t = .next u at hhigh
    rw [hleaves.reg_eq (by simpa using hd), hleaves.reg_eq (by simpa using hr)] at hhigh
    exact subInto_chain hd hlow hhigh
  case subi =>
    obtain ⟨-, hleaves⟩ := subInto_leaves hlow
    change subInto d1 (t.reg d1) k1 t.flagC true t = .next u at hhigh
    rw [hleaves.reg_eq (by simpa using hd)] at hhigh
    exact subInto_chain hd hlow hhigh
  case compare =>
    have hlow := compareBytes_leaves hlow
    change compareBytes (t.reg d1) (t.reg r1) t.flagC true t = .next u at hhigh
    have hhigh := compareBytes_leaves hhigh
    rw [hhigh.flagC, hhigh.flagZ, hlow.flagC, hlow.flagZ, hlow.reg_eq List.not_mem_nil, hlow.reg_eq List.not_mem_nil]
    exact ⟨subFlags_chain_c .., subFlags_chain_z ..⟩

end Sys2Proof.Machine

/-! ADIW and SBIW on register pairs, the logic instructions, COM, INC and DEC (R132, R133, R136, R141 to R154): O16, O19 and
O20. -/

namespace Sys2Proof.Machine

/-! ### ADIW and SBIW -/

/-- The sign bit of a 16-bit value as a bound (R7). -/
theorem getLsbD_fifteen_eq_ge (w : Word) : w.getLsbD 15 = decide (32768 ≤ w.toNat) := by
  exact (BitVec.msb_eq_getLsbD_last w).symm.trans (BitVec.msb_eq_decide w)

/-- Adding a six-bit constant carries out of bit 15 exactly when the sum does not fit (R133). -/
theorem addWordFlags_c (old : Word) (k : BitVec 6) :
    (addWordFlags old (old + k.setWidth 16)).c = decide (65536 ≤ old.toNat + k.toNat) := by
  have hold := old.isLt
  have hk := k.isLt
  rw [Bool.eq_iff_iff]
  simp only [addWordFlags, getLsbD_fifteen_eq_ge, BitVec.toNat_add, BitVec.toNat_setWidth, Bool.and_eq_true,
    Bool.not_eq_true', decide_eq_true_eq, decide_eq_false_iff_not]
  omega

/-- Adding a six-bit constant can only overflow upwards (R133). -/
theorem addWordFlags_v (old : Word) (k : BitVec 6) :
    (addWordFlags old (old + k.setWidth 16)).v = decide (32767 < old.toInt + k.toNat) := by
  have hold := old.isLt
  have hk := k.isLt
  rw [Bool.eq_iff_iff]
  simp only [addWordFlags, getLsbD_fifteen_eq_ge, BitVec.toNat_add, BitVec.toNat_setWidth,
    BitVec.toInt_eq_toNat_cond, Bool.and_eq_true, Bool.not_eq_true', decide_eq_true_eq, decide_eq_false_iff_not]
  omega

/-- Subtracting a six-bit constant borrows exactly when it is the greater (R133). -/
theorem subWordFlags_c (old : Word) (k : BitVec 6) :
    (subWordFlags old (old - k.setWidth 16)).c = decide (old.toNat < k.toNat) := by
  have hold := old.isLt
  have hk := k.isLt
  rw [Bool.eq_iff_iff]
  simp only [subWordFlags, getLsbD_fifteen_eq_ge, BitVec.toNat_sub, BitVec.toNat_setWidth, Bool.and_eq_true,
    Bool.not_eq_true', decide_eq_true_eq, decide_eq_false_iff_not]
  omega

/-- Subtracting a six-bit constant can only overflow downwards (R133). -/
theorem subWordFlags_v (old : Word) (k : BitVec 6) :
    (subWordFlags old (old - k.setWidth 16)).v = decide (old.toInt - k.toNat < -32768) := by
  have hold := old.isLt
  have hk := k.isLt
  rw [Bool.eq_iff_iff]
  simp only [subWordFlags, getLsbD_fifteen_eq_ge, BitVec.toNat_sub, BitVec.toNat_setWidth,
    BitVec.toInt_eq_toNat_cond, Bool.and_eq_true, Bool.not_eq_true', decide_eq_true_eq, decide_eq_false_iff_not]
  omega

theorem add_constant_toNat (old : Word) (k : BitVec 6) :
    (old + k.setWidth 16).toNat = (old.toNat + k.toNat) % 65536 := by
  simp

theorem sub_constant_toNat (old : Word) (k : BitVec 6) :
    ((old - k.setWidth 16).toNat : Int) = ((old.toNat : Int) - k.toNat) % 65536 := by
  have hold := old.isLt
  have hk := k.isLt
  simp only [BitVec.toNat_sub, BitVec.toNat_setWidth]
  omega

theorem showsFlags_setSVNZC (u : State) (f : FlagValues) (n : PcAddr) :
    ((u.setSVNZC f).advance n).ShowsFlags f := by
  constructor <;> simp

/-- The frame of an instruction that writes a pair and S, V, N, Z, C. -/
theorem keepsRest_setPair_setSVNZC (s : State) (d : Reg) (v : Word) (f : FlagValues) :
    keepsRest s (((s.setPair d v).setSVNZC f).advance 1#22) [d, d + 1#5] [0#3, 1#3, 2#3, 3#3, 4#3] :=
  keepsRest_compute 1#22 (keepsRest_setPair ..) (keepsRest_setSVNZC ..)

/-- Settles O16: the pair reads as the result written, whose flags the lemmas on the six-bit constant name. -/
theorem wordArithmeticOnPairs : Obligations.WordArithmeticOnPairs := by
  refine fun s d k _ => ⟨⟨_, rfl, ?adiw⟩, ⟨_, rfl, ?sbiw⟩⟩
  case adiw =>
    have h := showsFlags_setSVNZC (s.setPair d (s.pair d + k.setWidth 16))
      (addWordFlags (s.pair d) (s.pair d + k.setWidth 16)) 1#22
    rw [State.advance_pair, State.setSVNZC_pair, State.pair_setPair]
    exact ⟨add_constant_toNat .., h.flagN, h.flagZ.trans (beq_zero_eq_decide_toNat _), h.flagV,
      h.flagV.trans (addWordFlags_v ..), h.flagC, h.flagC.trans (addWordFlags_c ..), h.flagS,
      State.advance_pcAfter _ 1#22, keepsRest_setPair_setSVNZC ..⟩
  case sbiw =>
    have h := showsFlags_setSVNZC (s.setPair d (s.pair d - k.setWidth 16))
      (subWordFlags (s.pair d) (s.pair d - k.setWidth 16)) 1#22
    rw [State.advance_pair, State.setSVNZC_pair, State.pair_setPair]
    exact ⟨sub_constant_toNat .., h.flagN, h.flagZ.trans (beq_zero_eq_decide_toNat _), h.flagV,
      h.flagV.trans (subWordFlags_v ..), h.flagC, h.flagC.trans (subWordFlags_c ..), h.flagS,
      State.advance_pcAfter _ 1#22, keepsRest_setPair_setSVNZC ..⟩

/-! ### Logic -/

@[simp] theorem State.logicFlags_flagV (s : State) (res : Byte) : (s.logicFlags res).flagV = false := s.setSVNZ_flagV ..
@[simp] theorem State.logicFlags_flagN (s : State) (res : Byte) : (s.logicFlags res).flagN = bit7 res := s.setSVNZ_flagN ..
@[simp] theorem State.logicFlags_flagZ (s : State) (res : Byte) : (s.logicFlags res).flagZ = (res == 0#8) :=
  s.setSVNZ_flagZ ..
@[simp] theorem State.logicFlags_flagS (s : State) (res : Byte) : (s.logicFlags res).flagS = bit7 res := by
  simp [State.logicFlags]

/-- The frame of an instruction that writes a register and S, V, N, Z. -/
theorem keepsRest_setReg_setSVNZ (s : State) (d : Reg) (res : Byte) (v n z : Bool) :
    keepsRest s (((s.setReg d res).setSVNZ v n z).advance 1#22) [d] [1#3, 2#3, 3#3, 4#3] :=
  keepsRest_compute 1#22 (keepsRest_setReg ..) (keepsRest_setSVNZ ..)

/-- Settles O19: the nine are one operation; TST and CLR name a result that does not show their second operand. -/
theorem logicWritesResultAndFlags : Obligations.LogicWritesResultAndFlags := by
  intro s d r k i res hmem _
  have hexec : exec i s = logicInto d res s := by
    simp only [List.mem_cons, List.not_mem_nil, or_false, Prod.mk.injEq] at hmem
    rcases hmem with h | h | h | h | h | h | h | h | h <;> obtain ⟨rfl, rfl⟩ := h
    iterate 7 exact rfl -- AND, ANDI, OR, ORI, EOR, SBR, CBR
    · exact congrArg (logicInto d · s) BitVec.and_self -- TST
    · exact congrArg (logicInto d · s) BitVec.xor_self -- CLR
  refine ⟨_, hexec, by simp, by simp, ?_, ?_, by simp, State.advance_pcAfter _ 1#22, keepsRest_setReg_setSVNZ ..⟩
  · rw [State.advance_flagN, State.logicFlags_flagN, bit7_eq_ge]
  · rw [State.advance_flagZ, State.logicFlags_flagZ, beq_zero_eq_decide_toNat]

/-! ### COM, INC and DEC -/

theorem complement_toNat (v : Byte) : (0xFF#8 - v).toNat = 255 - v.toNat := by
  have hv := v.isLt
  simp only [BitVec.toNat_sub, BitVec.toNat_ofNat]
  omega

/-- The complement is zero for the byte of all ones alone (R147). -/
theorem complement_beq_zero (v : Byte) : (0xFF#8 - v == 0#8) = decide (v = 0xFF#8) := by
  have hv := v.isLt
  rw [beq_zero_eq_decide_toNat, complement_toNat, decide_eq_decide, ← BitVec.toNat_inj, BitVec.toNat_ofNat]
  omega

theorem increment_toNat (v : Byte) : (v + 1#8).toNat = (v.toNat + 1) % 256 := BitVec.toNat_add ..

theorem decrement_toNat (v : Byte) : (v - 1#8).toNat = (v.toNat + 255) % 256 := by
  rw [BitVec.toNat_sub, Nat.add_comm]
  rfl

theorem increment_beq_zero (v : Byte) : (v + 1#8 == 0#8) = decide (v.toNat = 255) := by
  have hv := v.isLt
  rw [beq_zero_eq_decide_toNat, increment_toNat, decide_eq_decide]
  omega

theorem decrement_beq_zero (v : Byte) : (v - 1#8 == 0#8) = decide (v.toNat = 1) := by
  have hv := v.isLt
  rw [beq_zero_eq_decide_toNat, decrement_toNat, decide_eq_decide]
  omega

/-- An increment overflows at the greatest signed byte (R151). -/
theorem increment_beq_min (v : Byte) : (v + 1#8 == 0x80#8) = decide (v.toInt = 127) := by
  have hv := v.isLt
  rw [Bool.eq_iff_iff, beq_iff_eq, decide_eq_true_iff, ← BitVec.toNat_inj, increment_toNat, BitVec.toNat_ofNat,
    BitVec.toInt_eq_toNat_cond]
  omega

/-- A decrement overflows at the least signed byte (R152). -/
theorem decrement_beq_max (v : Byte) : (v - 1#8 == 0x7F#8) = decide (v.toInt = -128) := by
  have hv := v.isLt
  rw [Bool.eq_iff_iff, beq_iff_eq, decide_eq_true_iff, ← BitVec.toNat_inj, decrement_toNat, BitVec.toNat_ofNat,
    BitVec.toInt_eq_toNat_cond]
  omega

/-- Settles O20: the results by their numbers, the flags as the tests on the result say. -/
theorem complementIncrementDecrement : Obligations.ComplementIncrementDecrement := by
  refine fun s d => ⟨⟨_, rfl, ?com⟩, ⟨_, rfl, ?inc⟩, ⟨_, rfl, ?dec⟩⟩
  case com =>
    simp only [State.advance_reg, State.setSVNZC_reg, State.reg_setReg_same]
    exact ⟨complement_toNat _, by simp, by simp, by simp, by simp [complement_beq_zero], by simp,
      State.advance_pcAfter _ 1#22, keepsRest_compute 1#22 (keepsRest_setReg ..) (keepsRest_setSVNZC ..)⟩
  case inc =>
    simp only [State.advance_reg, State.setSVNZ_reg, State.reg_setReg_same]
    exact ⟨increment_toNat _, by simp [increment_beq_min], by simp, by simp [increment_beq_zero], by simp,
      State.advance_pcAfter _ 1#22, keepsRest_setReg_setSVNZ ..⟩
  case dec =>
    simp only [State.advance_reg, State.setSVNZ_reg, State.reg_setReg_same]
    exact ⟨decrement_toNat _, by simp [decrement_beq_max], by simp, by simp [decrement_beq_zero], by simp,
      State.advance_pcAfter _ 1#22, keepsRest_setReg_setSVNZ ..⟩

end Sys2Proof.Machine

/-! The products (R156 to R161): each of the three is the exact product of its operands as numbers, and the fractional ones
twice that; O21 and O22. Then O4. -/

namespace Sys2Proof.Machine

/-! ### The exact products -/

theorem mulUnsigned_toNat (a b : Byte) : (mulUnsigned a b).toNat = a.toNat * b.toNat := by
  have hab : a.toNat * b.toNat < 256 * 256 := Nat.mul_lt_mul'' a.isLt b.isLt
  simp only [mulUnsigned, BitVec.toNat_mul, BitVec.toNat_setWidth]
  rw [Nat.mod_eq_of_lt (Nat.lt_trans a.isLt (by decide)), Nat.mod_eq_of_lt (Nat.lt_trans b.isLt (by decide)),
    Nat.mod_eq_of_lt hab]

/-- The product of two signed bytes is at most 2^14 in size (R157). -/
theorem mulSigned_toInt (a b : Byte) : (mulSigned a b).toInt = a.toInt * b.toInt := by
  have hlo : -2 ^ (8 * 2 - 2) ≤ a.toInt * b.toInt := BitVec.le_toInt_mul_toInt
  have hhi : a.toInt * b.toInt ≤ 2 ^ (8 * 2 - 2) := BitVec.toInt_mul_toInt_le
  rw [mulSigned, BitVec.toInt_mul, BitVec.toInt_signExtend_of_le (by decide), BitVec.toInt_signExtend_of_le (by decide)]
  exact Int.bmod_eq_of_le (by omega) (by omega)

theorem toInt_setWidth_byte (b : Byte) : (b.setWidth 16).toInt = b.toNat := by
  have hb := b.isLt
  rw [BitVec.toInt_setWidth]
  exact Int.bmod_eq_of_le (by omega) (by omega)

/-- The product of a signed and an unsigned byte lies between -128 * 255 and 127 * 255, so that 16 bits hold it (R158). -/
theorem mulSignedUnsigned_toInt (a b : Byte) : (mulSignedUnsigned a b).toInt = a.toInt * b.toNat := by
  obtain ⟨hlo, hhi⟩ := byte_toInt_bounds a
  have hb := b.isLt
  have hlow : -128 * (b.toNat : Int) ≤ a.toInt * b.toNat := Int.mul_le_mul_of_nonneg_right hlo (Int.natCast_nonneg _)
  have hhigh : a.toInt * b.toNat ≤ 127 * (b.toNat : Int) :=
    Int.mul_le_mul_of_nonneg_right (by omega) (Int.natCast_nonneg _)
  rw [mulSignedUnsigned, BitVec.toInt_mul, BitVec.toInt_signExtend_of_le (by decide), toInt_setWidth_byte]
  exact Int.bmod_eq_of_le (by omega) (by omega)

/-! ### What a multiplication leaves -/

/-- What a multiplication leaves of `s`: the value `v` in R1:R0, C and Z, the next pc, everything else as before (R156 to
R161). -/
structure Multiplied (s t : State) (v : Word) (c : Bool) : Prop where
  pair : t.pair 0#5 = v
  flagC : t.flagC = c
  flagZ : t.flagZ = (v == 0#16)
  pc : t.pc = s.pcAfter 1
  rest : keepsRest s t [0#5, 1#5] [0#3, 1#3]

theorem multiplied_setPair_setZC (s : State) (v : Word) (c : Bool) :
    Multiplied s (((s.setPair 0#5 v).setZC (v == 0#16) c).advance 1#22) v c :=
  ⟨by simp, by simp, by simp, State.advance_pcAfter _ 1#22,
    keepsRest_compute 1#22 (keepsRest_setPair s 0#5 v) (keepsRest_setZC ..)⟩

/-! ### The obligations -/

/-- MUL, MULS and MULSU leave their product in R1:R0, and the flags by that pair. -/
theorem productInto_effect (p : Word) (s : State) :
    ∃ t, productInto p s = .next t ∧ t.pair 0#5 = p ∧
      t.flagC = (t.pair 0#5).getLsbD 15 ∧ t.flagZ = decide (t.pair 0#5 = 0#16) ∧
      t.pc = s.pcAfter 1 ∧ keepsRest s t [0#5, 1#5] [0#3, 1#3] := by
  have h := multiplied_setPair_setZC s p (p.getLsbD 15)
  refine ⟨_, rfl, h.pair, ?_, ?_, h.pc, h.rest⟩
  · rw [h.pair, h.flagC]
  · rw [h.pair, h.flagZ, beq_eq_decide]

/-- Settles O21: R1:R0 holds the product, which is exact. -/
theorem productsAreExact : Obligations.ProductsAreExact := by
  refine fun s d r => ⟨?mul, ?muls, ?mulsu⟩
  case mul =>
    obtain ⟨t, ht, hpair, hrest⟩ := productInto_effect (mulUnsigned (s.reg d) (s.reg r)) s
    exact ⟨t, ht, hpair ▸ mulUnsigned_toNat .., hrest⟩
  case muls =>
    obtain ⟨t, ht, hpair, hrest⟩ := productInto_effect (mulSigned (s.reg d) (s.reg r)) s
    exact ⟨t, ht, hpair ▸ mulSigned_toInt .., hrest⟩
  case mulsu =>
    obtain ⟨t, ht, hpair, hrest⟩ := productInto_effect (mulSignedUnsigned (s.reg d) (s.reg r)) s
    exact ⟨t, ht, hpair ▸ mulSignedUnsigned_toInt .., hrest⟩

/-- An exact signed product, as the unsigned number its 16 bits are. -/
theorem toNat_eq_emod_of_toInt_eq {w : Word} {p : Int} (h : w.toInt = p) : (w.toNat : Int) = p % 65536 := by
  have hw := w.isLt
  rw [BitVec.toInt_eq_toNat_cond] at h
  omega

/-- The shift of R159 to R161 doubles the product, modulo 65536. -/
theorem shiftLeft_one_toNat {w : Word} {p : Int} (h : (w.toNat : Int) = p % 65536) :
    ((w <<< 1).toNat : Int) = (2 * p) % 65536 := by
  rw [BitVec.toNat_shiftLeft, Nat.shiftLeft_eq]
  omega

/-- Settles O22: R1:R0 holds the shifted product, C is bit 15 of the product itself. -/
theorem fractionalProductsAreDoubled : Obligations.FractionalProductsAreDoubled := by
  intro s d r i p hmem
  obtain ⟨w, hexec, hw⟩ : ∃ w, exec i s = fractionInto w s ∧ (w.toNat : Int) = p % 65536 := by
    simp only [List.mem_cons, List.not_mem_nil, or_false, Prod.mk.injEq] at hmem
    obtain ⟨rfl, rfl⟩ | ⟨rfl, rfl⟩ | ⟨rfl, rfl⟩ := hmem
    · have hprod := mulUnsigned_toNat (s.reg d) (s.reg r) -- FMUL
      have hlt := (mulUnsigned (s.reg d) (s.reg r)).isLt
      exact ⟨_, rfl, by omega⟩
    · exact ⟨_, rfl, toNat_eq_emod_of_toInt_eq (mulSigned_toInt ..)⟩ -- FMULS
    · exact ⟨_, rfl, toNat_eq_emod_of_toInt_eq (mulSignedUnsigned_toInt ..)⟩ -- FMULSU
  have h := multiplied_setPair_setZC s (w <<< 1) (w.getLsbD 15)
  have hdouble := shiftLeft_one_toNat hw
  refine ⟨_, hexec, ?_, ?_, ?_, h.pc, h.rest⟩
  · rw [h.pair, hdouble]
  · rw [h.flagC, getLsbD_fifteen_eq_ge, ← hw, decide_eq_decide]
    omega
  · rw [h.flagZ, beq_zero_eq_decide_toNat, ← hdouble, decide_eq_decide]
    omega

/-! ### Decoding -/

/-- Settles O4: each word is decoded by evaluation. -/
theorem exampleWordsDecode : Obligations.ExampleWordsDecode :=
  ⟨rfl, rfl, rfl, rfl, rfl, rfl, rfl, rfl, rfl, rfl, rfl, rfl, rfl, rfl, rfl, rfl, rfl, rfl⟩

end Sys2Proof.Machine

/-! The checks before an indirect access (R170, R189, R195, R321): every indirect instruction begins with those of its pointer,
which pass or stop it; O30, O54, O55 and O56. -/

namespace Sys2Proof.Machine

/-! ### The pointer and the data register of an instruction -/

/-- Note 7's case is that the pointer of the instruction holds its data register (R170). -/
theorem pointerHazard_of_operand {i : Instr} {p : Pointer} {r : Reg} (hi : indirectOperand i = some (p, r)) :
    pointerHazard i = p.holds r := by
  rw [pointerHazard, hi]
  rfl

theorem operand_of_pointerHazard {i : Instr} (h : pointerHazard i = true) :
    ∃ p r, indirectOperand i = some (p, r) ∧ p.holds r = true := by
  cases hi : indirectOperand i with
  | none => simp [pointerHazard, hi] at h
  | some operand => exact ⟨operand.1, operand.2, rfl, pointerHazard_of_operand hi ▸ h⟩

/-- X and Y are what an instruction needs whose pointer is not Z (R195). -/
theorem needsXY_of_operand {i : Instr} {p : Pointer} {r : Reg} (hi : indirectOperand i = some (p, r)) :
    needsXY i = true ↔ p ≠ .z := by
  cases p <;> simp [needsXY, hi]

theorem operand_of_needsXY {i : Instr} (h : needsXY i = true) :
    ∃ p r, indirectOperand i = some (p, r) ∧ p ≠ .z := by
  cases hi : indirectOperand i with
  | none => simp [needsXY, hi] at h
  | some operand => exact ⟨operand.1, operand.2, rfl, (needsXY_of_operand hi).1 h⟩

theorem Pointer.holds_eq_false {p : Pointer} {r : Reg} : p.holds r = false ↔ r ≠ p.lo ∧ r ≠ p.lo + 1#5 := by
  simp [Pointer.holds]

/-! ### What the checks answer -/

/-- A Z-only core refuses X and Y, before it looks at the data register (R195, R321). -/
theorem checkPointer_of_absent {p : Pointer} {r : Reg} {s : State} (hxy : s.cfg.hasXY = false) (hp : p ≠ .z) :
    checkPointer p r s = .refused .pointerXYAbsent := by
  simp [checkPointer, hxy, hp]

/-- A data register of the pointer's own faults where the pointer is there (R170). -/
theorem checkPointer_of_holds {p : Pointer} {r : Reg} {s : State} (hxy : p ≠ .z → s.cfg.hasXY = true)
    (h : p.holds r = true) : checkPointer p r s = .fault .pointerAsOperand := by
  obtain ⟨-, habsent, hp⟩ | ⟨hfault, -⟩ | ⟨-, hfree, -⟩ := checkPointer_cases p r s
  · exact absurd (hxy hp) (by simp [habsent])
  · exact hfault
  · exact absurd h (by simp [hfree])

/-- LPM and ELPM make the check of a pointer that is always there. -/
theorem checkZ_eq_checkPointer (d : Reg) (s : State) : checkZ d s = checkPointer .z d s := by
  simp [checkZ, checkPointer]

/-- Away from Z = 0xFFFF, ELPM Rd,Z+ goes on to its check as the other forms do (R189). -/
theorem exec_elpmZInc_of_ne {d : Reg} {s : State} (h : s.z ≠ 0xFFFF#16) :
    exec (.elpmZInc d) s = andThen (checkZ d s) fun u => loadProgramIncrement d u.rampzZ u := if_neg h

/-- Every indirect instruction begins with the checks of its pointer, but for ELPM Rd,Z+ at Z = 0xFFFF (R170, R195, R321). -/
theorem exec_eq_andThen_checkPointer {i : Instr} {p : Pointer} {r : Reg} {s : State}
    (hi : indirectOperand i = some (p, r)) (hcarry : ∀ d, i = .elpmZInc d → s.z ≠ 0xFFFF#16) :
    ∃ f, exec i s = andThen (checkPointer p r s) f := by
  cases i <;> cases hi
  case lpmZ | lpmZInc | elpmZ =>
    rw [← checkZ_eq_checkPointer]
    exact ⟨_, rfl⟩
  case elpmZInc =>
    rw [← checkZ_eq_checkPointer]
    exact ⟨_, exec_elpmZInc_of_ne (hcarry r rfl)⟩
  all_goals exact ⟨_, rfl⟩

/-! ### The obligations -/

/-- Settles O30: the refusal is all that SPM does. -/
theorem storeProgramMemoryIsRefused : Obligations.StoreProgramMemoryIsRefused := fun _ => rfl

/-- Settles O56: ELPM Rd,Z+ asks for Z = 0xFFFF before all else. -/
theorem elpmCarryIsRefused : Obligations.ElpmCarryIsRefused := fun _ _ hz => if_pos hz

/-- Settles O54: the checks of the pointer come first, and fault. -/
theorem pointerAsOperandFaults : Obligations.PointerAsOperandFaults := by
  intro i s hhazard hxy hcarry
  obtain ⟨p, r, hi, hholds⟩ := operand_of_pointerHazard hhazard
  obtain ⟨f, hexec⟩ := exec_eq_andThen_checkPointer hi hcarry
  have hpresent (hp : p ≠ .z) : s.cfg.hasXY = true := hxy ((needsXY_of_operand hi).2 hp)
  rw [hexec, checkPointer_of_holds hpresent hholds, andThen_fault]

/-- Settles O55: the checks of the pointer come first, and refuse; ELPM goes through Z and is not one of these forms. -/
theorem zOnlyCoreRefusesXAndY : Obligations.ZOnlyCoreRefusesXAndY := by
  intro i s hneeds hxy
  obtain ⟨p, r, hi, hp⟩ := operand_of_needsXY hneeds
  have hcarry : ∀ d, i = .elpmZInc d → s.z ≠ 0xFFFF#16 := by
    rintro d rfl
    cases hneeds
  obtain ⟨f, hexec⟩ := exec_eq_andThen_checkPointer hi hcarry
  rw [hexec, checkPointer_of_absent hxy hp, andThen_refused]

end Sys2Proof.Machine

/-! Register moves and loads (R155, R171 to R178, R184 to R189, R191, R277): what the write of a register or a pair and the
advance of the pc leave, then O23, O36, O37, O38 and O42. -/

namespace Sys2Proof.Machine

/-! ### Moves -/

/-- A register written and the pc advanced is all such an instruction does. -/
theorem exec_setReg_effect {i : Instr} {s : State} {d : Reg} {v : Byte}
    (h : exec i s = .next ((s.setReg d v).advance 1#22)) :
    ∃ t, exec i s = .next t ∧ t.reg d = v ∧ t.pc = s.pcAfter 1 ∧ keepsRest s t [d] [] :=
  ⟨_, h, by simp, State.advance_pcAfter _ 1#22, keepsRest_trans (keepsRest_setReg s d v) (keepsRest_advance _ 1#22)⟩

/-- The two digits of a byte exchanged, as a number (R277). -/
theorem swapped_toNat (v : Byte) :
    (v.extractLsb' 0 4 ++ v.extractLsb' 4 4).toNat = v.toNat % 16 * 16 + v.toNat / 16 := by
  have hv := v.isLt
  have hhigh : (v.extractLsb' 4 4).toNat < 2 ^ 4 := BitVec.isLt _
  rw [BitVec.toNat_append, ← Nat.shiftLeft_add_eq_or_of_lt hhigh, Nat.shiftLeft_eq]
  simp only [BitVec.extractLsb'_toNat, Nat.shiftRight_eq_div_pow]
  omega

/-- Settles O23: each is one write of a register or a pair. -/
theorem movesAndSwapKeepFlags : Obligations.MovesAndSwapKeepFlags := by
  refine fun s d r k => ⟨exec_setReg_effect rfl, ?movw, exec_setReg_effect rfl, exec_setReg_effect rfl, ?swap⟩
  case movw =>
    exact ⟨_, rfl, by simp, State.advance_pcAfter _ 1#22,
      keepsRest_trans (keepsRest_setPair s d (s.pair r)) (keepsRest_advance _ 1#22)⟩
  case swap =>
    obtain ⟨t, ht, hreg, hrest⟩ := exec_setReg_effect (i := .swap d) (s := s) rfl
    exact ⟨t, ht, hreg ▸ swapped_toNat (s.reg d), hrest⟩

/-! ### The addresses of the operand forms -/

/-- The address of a form with displacement, by its number (R178, R183). -/
theorem displacedAddress_eq (a : Word) (q : BitVec 6) :
    a + q.setWidth 16 = BitVec.ofNat 16 (a.toNat + q.toNat) := by
  apply BitVec.eq_of_toNat_eq
  simp

/-- The address of IN and OUT, by its number (R101). -/
theorem ioAddress_eq (a : BitVec 6) : ioAddress a = BitVec.ofNat 16 (a.toNat + 0x20) := by
  apply BitVec.eq_of_toNat_eq
  simp [ioAddress, ioBase]

/-! ### Frames -/

theorem keepsRest_refl (s : State) : keepsRest s s [] [] :=
  ⟨fun _ _ => rfl, fun _ _ => rfl, rfl, ⟨rfl, rfl, rfl⟩, ⟨rfl, rfl, rfl⟩, fun _ => rfl, fun _ => rfl, rfl, rfl⟩

/-- A pointer reads as before where the register written is none of its two. -/
theorem State.pointer_setReg_other (s : State) {d : Reg} {p : Pointer} (v : Byte) (hlo : d ≠ p.lo)
    (hhi : d ≠ p.lo + 1#5) : (s.setReg d v).pointer p = s.pointer p := by
  rw [State.pointer, State.pair, State.reg_setReg_other s v hhi.symm, State.reg_setReg_other s v hlo.symm]
  rfl

/-- What leads to the state at a read, and what follows the read, together give the frame of the whole. -/
theorem keepsRestButRead_of_keepsRest {s u t : State} {a : Word} {before after : List Reg}
    (h1 : keepsRest s u before []) (h2 : keepsRest (u.afterRead a) t after []) :
    keepsRestButRead u s t a (after ++ before) := by
  obtain ⟨hregs1, hflags1, -, ⟨hcfg1, hrampz1, heind1⟩, ⟨hinh1, hsleep1, hreq1⟩, hram1, hprog1, -⟩ := h1
  obtain ⟨hregs2, hflags2, -, ⟨hcfg2, hrampz2, heind2⟩, ⟨hinh2, hsleep2, hreq2⟩, hram2, hprog2, hdraws, hevents⟩ := h2
  refine ⟨fun r hr => ?_, fun n hn => (hflags2 n hn).trans (hflags1 n hn),
    ⟨hcfg2.trans hcfg1, hrampz2.trans hrampz1, heind2.trans heind1⟩,
    ⟨hinh2.trans hinh1, hsleep2.trans hsleep1, hreq2.trans hreq1⟩, fun b => (hram2 b).trans (hram1 b),
    fun b => (hprog2 b).trans (hprog1 b), hdraws, hevents⟩
  simp only [List.mem_append, not_or] at hr
  exact (hregs2 r hr.1).trans (hregs1 r hr.2)

/-! ### Loads from the data space -/

theorem loadByte_of_seen {s : State} {a : Word} {v : Byte} (d : Reg) (h : s.seen a = some v) :
    loadByte d a s = .next ((s.afterRead a).setReg d v) := by
  rw [loadByte, memRead_of_seen h, andThen_next]

/-- What the checks leave of a load with displacement. -/
theorem loadDisplaced_of_checked {p : Pointer} {d : Reg} {q : BitVec 6} {s : State} (h : checkPointer p d s = .next s) :
    loadDisplaced p d q s =
      andThen (loadByte d (s.pointer p + q.setWidth 16) s) fun u => .next (u.advance 1#22) := by
  rw [loadDisplaced, h, andThen_next]

/-- The plain form is the one with displacement 0 (R175). -/
theorem loadPlain_of_checked {p : Pointer} {d : Reg} {s : State} (h : checkPointer p d s = .next s) :
    loadDisplaced p d 0#6 s = andThen (loadByte d (s.pointer p) s) fun u => .next (u.advance 1#22) := by
  simpa using loadDisplaced_of_checked (q := 0#6) h

theorem loadIncrement_of_seen {p : Pointer} {d : Reg} {s : State} {v : Byte} (h : checkPointer p d s = .next s)
    (hv : s.seen (s.pointer p) = some v) :
    loadIncrement p d s =
      .next ((((s.afterRead (s.pointer p)).setReg d v).setPair p.lo (s.pointer p + 1#16)).advance 1#22) := by
  rw [loadIncrement, h, andThen_next, loadByte_of_seen d hv, andThen_next]

theorem loadDecrement_of_seen {p : Pointer} {d : Reg} {s : State} {v : Byte} (h : checkPointer p d s = .next s)
    (hv : (s.setPair p.lo (s.pointer p - 1#16)).seen (s.pointer p - 1#16) = some v) :
    loadDecrement p d s =
      .next ((((s.setPair p.lo (s.pointer p - 1#16)).afterRead (s.pointer p - 1#16)).setReg d v).advance 1#22) := by
  rw [loadDecrement, h, andThen_next, loadByte_of_seen d hv, andThen_next]

/-- Settles O36: each of the seven, its checks passed, is the load of its byte and the advance of the pc. -/
theorem loadsReadTheirAddress : Obligations.LoadsReadTheirAddress := by
  intro s d k q a6 v i a words hmem hhazard hxy hv
  have hreach : reachesAccess i s := ⟨hhazard, hxy, by rintro e rfl; simp at hmem⟩
  have hcheck {p : Pointer} {r : Reg} : indirectOperand i = some (p, r) → checkPointer p r s = .next s :=
    checkPointer_of_reachesAccess hreach
  obtain ⟨n, hn, hexec⟩ : ∃ n : PcAddr, n.toNat = words ∧
      exec i s = andThen (loadByte d a s) fun u => .next (u.advance n) := by
    simp only [List.mem_cons, List.not_mem_nil, or_false, Prod.mk.injEq] at hmem
    rcases hmem with h | h | h | h | h | h | h <;> obtain ⟨rfl, rfl, rfl⟩ := h
    · exact ⟨2#22, rfl, rfl⟩ -- LDS
    iterate 3 exact ⟨1#22, rfl, loadPlain_of_checked (hcheck rfl)⟩ -- LD
    iterate 2 exact ⟨1#22, rfl, displacedAddress_eq _ q ▸ loadDisplaced_of_checked (hcheck rfl)⟩ -- LDD
    · exact ⟨1#22, rfl, ioAddress_eq a6 ▸ rfl⟩ -- IN
  rw [loadByte_of_seen d hv, andThen_next] at hexec
  exact ⟨_, hexec, by simp, hn ▸ State.advance_pcAfter _ n, rfl, keepsRestButRead_load s a d v n⟩

/-- Settles O37: the increment comes after the load, and goes to other registers than the byte. -/
theorem loadsWithPostIncrement : Obligations.LoadsWithPostIncrement := by
  intro s d v i p hmem hhazard hxy hv
  have hreach : reachesAccess i s := ⟨hhazard, hxy, by rintro e rfl; simp at hmem⟩
  obtain ⟨hexec, hi⟩ : exec i s = loadIncrement p d s ∧ indirectOperand i = some (p, d) := by
    simp only [List.mem_cons, List.not_mem_nil, or_false, Prod.mk.injEq] at hmem
    obtain ⟨rfl, rfl⟩ | ⟨rfl, rfl⟩ | ⟨rfl, rfl⟩ := hmem <;> exact ⟨rfl, rfl⟩
  rw [loadIncrement_of_seen (checkPointer_of_reachesAccess hreach hi) hv] at hexec
  obtain ⟨hlo, hhi⟩ := Pointer.holds_eq_false.1 (pointerHazard_of_operand hi ▸ hhazard)
  have hafter := keepsRest_trans (keepsRest_trans (keepsRest_setReg (s.afterRead (s.pointer p)) d v)
    (keepsRest_setPair _ p.lo (s.pointer p + 1#16))) (keepsRest_advance _ 1#22)
  refine ⟨_, hexec, ?_, ?_, State.advance_pcAfter _ 1#22, rfl, keepsRestButRead_of_keepsRest (keepsRest_refl s) hafter⟩
  · rw [State.advance_reg, State.reg_setPair_other _ _ hlo hhi, State.reg_setReg_same]
  · exact State.pair_setPair _ p.lo _

/-- Settles O38: the load comes after the decrement, and goes to a register that is none of the pointer's. -/
theorem loadsWithPreDecrement : Obligations.LoadsWithPreDecrement := by
  intro s d v i p hmem hhazard hxy hv
  have hreach : reachesAccess i s := ⟨hhazard, hxy, by rintro e rfl; simp at hmem⟩
  obtain ⟨hexec, hi⟩ : exec i s = loadDecrement p d s ∧ indirectOperand i = some (p, d) := by
    simp only [List.mem_cons, List.not_mem_nil, or_false, Prod.mk.injEq] at hmem
    obtain ⟨rfl, rfl⟩ | ⟨rfl, rfl⟩ | ⟨rfl, rfl⟩ := hmem <;> exact ⟨rfl, rfl⟩
  rw [loadDecrement_of_seen (checkPointer_of_reachesAccess hreach hi) hv] at hexec
  obtain ⟨hlo, hhi⟩ := Pointer.holds_eq_false.1 (pointerHazard_of_operand hi ▸ hhazard)
  have hbefore := keepsRest_setPair s p.lo (s.pointer p - 1#16)
  have hafter := keepsRest_trans
    (keepsRest_setReg ((s.setPair p.lo (s.pointer p - 1#16)).afterRead (s.pointer p - 1#16)) d v)
    (keepsRest_advance _ 1#22)
  refine ⟨_, hexec, ?_, ?_, State.advance_pcAfter _ 1#22, rfl, keepsRestButRead_of_keepsRest hbefore hafter⟩
  · simp
  · rw [State.advance_pointer, State.pointer_setReg_other _ _ hlo hhi]
    exact State.pair_setPair s p.lo _

/-! ### Loads from program memory -/

/-- `RAMPZ:Z` as a number (R187). -/
theorem State.rampzZ_eq (s : State) : s.rampzZ = s.rampz.toNat * 65536 + s.z.toNat := by
  rw [State.rampzZ, BitVec.toNat_append, ← Nat.shiftLeft_add_eq_or_of_lt s.z.isLt, Nat.shiftLeft_eq]

/-- A program byte is the half of its word that bit 0 of its address selects (R67). -/
theorem flashByte_eq_half {s : State} {ba : Nat} (h : ba / 2 < s.cfg.programWords) :
    s.flashByte ba =
      if ba % 2 = 0 then lowByte (s.programWord (ba / 2)) else highByte (s.programWord (ba / 2)) := by
  have hbyte := progByte_of_lt h
  rw [progByte, progWord_of_lt h] at hbyte
  exact (Host.Outcome.next.inj hbyte).symm

/-- What the check leaves of a load whose data register is none of Z's (R170). -/
theorem andThen_checkZ {α : Type} {d : Reg} {s : State} (h : Pointer.z.holds d = false) (f : State → Result α) :
    andThen (checkZ d s) f = f s := by
  rw [checkZ_eq_checkPointer, checkPointer_ok (.inr rfl) h, andThen_next]

/-- A load that leaves Z alone: the byte, and the frame (R184, R185, R187, R188). -/
theorem loadProgram_effect {d : Reg} {ba : Nat} {s : State} (hd : Pointer.z.holds d = false)
    (hba : ba / 2 < s.cfg.programWords) :
    ∃ t, loadProgram d ba s = .next t ∧ t.reg d = s.flashByte ba ∧ t.z = s.z ∧ t.pc = s.pcAfter 1 ∧
      keepsRest s t [d] [] := by
  obtain ⟨hlo, hhi⟩ := Pointer.holds_eq_false.1 hd
  refine ⟨((s.setReg d (s.flashByte ba)).advance 1#22), ?_, by simp, s.pointer_setReg_other _ hlo hhi,
    State.advance_pcAfter _ 1#22, keepsRest_trans (keepsRest_setReg ..) (keepsRest_advance ..)⟩
  rw [loadProgram, progByte_of_lt hba, andThen_next]

/-- A load with post-increment: the byte, Z plus one, and the frame (R186, R189). -/
theorem loadProgramIncrement_effect {d : Reg} {ba : Nat} {s : State} (hd : Pointer.z.holds d = false)
    (hba : ba / 2 < s.cfg.programWords) :
    ∃ t, loadProgramIncrement d ba s = .next t ∧ t.reg d = s.flashByte ba ∧ t.z = s.z + 1#16 ∧ t.pc = s.pcAfter 1 ∧
      keepsRest s t [d, 30#5, 31#5] [] := by
  obtain ⟨hlo, hhi⟩ := Pointer.holds_eq_false.1 hd
  refine ⟨((s.setReg d (s.flashByte ba)).setPair Pointer.z.lo (s.z + 1#16)).advance 1#22, ?_, ?_,
    State.pair_setPair _ Pointer.z.lo _, State.advance_pcAfter _ 1#22,
    keepsRest_trans (keepsRest_trans (keepsRest_setReg ..) (keepsRest_setPair ..)) (keepsRest_advance ..)⟩
  · rw [loadProgramIncrement, progByte_of_lt hba, andThen_next]
  · rw [State.advance_reg, State.reg_setPair_other _ _ hlo hhi, State.reg_setReg_same]

/-- Settles O42: each of the six, its checks passed, is the load of its byte, the Z+ forms with the increment. -/
theorem programLoadsReadTheirByte : Obligations.ProgramLoadsReadTheirByte := by
  intro s d0 i d ba inc hmem hhazard hcarry
  obtain ⟨hd, hexec⟩ : Pointer.z.holds d = false ∧
      exec i s = if inc then loadProgramIncrement d ba s else loadProgram d ba s := by
    simp only [List.mem_cons, List.not_mem_nil, or_false, Prod.mk.injEq] at hmem
    rw [← State.rampzZ_eq] at hmem
    rcases hmem with h | h | h | h | h | h <;> obtain ⟨rfl, rfl, rfl, rfl⟩ := h
    · exact ⟨by decide, rfl⟩ -- LPM
    · exact ⟨hhazard, andThen_checkZ hhazard _⟩ -- LPM Rd,Z
    · exact ⟨hhazard, andThen_checkZ hhazard _⟩ -- LPM Rd,Z+
    · exact ⟨by decide, rfl⟩ -- ELPM
    · exact ⟨hhazard, andThen_checkZ hhazard _⟩ -- ELPM Rd,Z
    · exact ⟨hhazard, (exec_elpmZInc_of_ne (hcarry rfl)).trans (andThen_checkZ hhazard _)⟩ -- ELPM Rd,Z+
  rw [hexec]
  refine ⟨fun hba => ?inside, fun hba => ?outside⟩
  case inside =>
    rw [← flashByte_eq_half hba]
    cases inc
    · exact loadProgram_effect hd hba
    · exact loadProgramIncrement_effect hd hba
  case outside =>
    have hbyte := progByte_of_ge hba
    cases inc
    · simp [loadProgram, hbyte]
    · simp [loadProgramIncrement, hbyte]

end Sys2Proof.Machine

/-! Stores to the data space (R179 to R183, R192): what a write of a data byte leaves, with the pointer moved before or after
it; O39, O40 and O41. -/

namespace Sys2Proof.Machine

/-! ### What the checks leave of a store -/

theorem storeDisplaced_of_checked {p : Pointer} {r : Reg} {q : BitVec 6} {s : State} (h : checkPointer p r s = .next s) :
    storeDisplaced p q r s =
      andThen (memWrite s (s.pointer p + q.setWidth 16) (s.reg r)) fun u => .next (u.advance 1#22) := by
  rw [storeDisplaced, h, andThen_next]

/-- The plain form is the one with displacement 0 (R180). -/
theorem storePlain_of_checked {p : Pointer} {r : Reg} {s : State} (h : checkPointer p r s = .next s) :
    storeDisplaced p 0#6 r s = andThen (memWrite s (s.pointer p) (s.reg r)) fun u => .next (u.advance 1#22) := by
  simpa using storeDisplaced_of_checked (q := 0#6) h

theorem storeIncrement_of_memWrite {p : Pointer} {r : Reg} {s u : State} (h : checkPointer p r s = .next s)
    (hw : memWrite s (s.pointer p) (s.reg r) = .next u) :
    storeIncrement p r s = .next ((u.setPair p.lo (s.pointer p + 1#16)).advance 1#22) := by
  rw [storeIncrement, h, andThen_next, hw, andThen_next]

theorem storeDecrement_of_memWrite {p : Pointer} {r : Reg} {s u : State} (h : checkPointer p r s = .next s)
    (hw : memWrite (s.setPair p.lo (s.pointer p - 1#16)) (s.pointer p - 1#16) (s.reg r) = .next u) :
    storeDecrement p r s = .next (u.advance 1#22) := by
  rw [storeDecrement, h, andThen_next, hw, andThen_next]

/-- What a store leaves does not speak of the registers, so a pair written after it keeps it. -/
theorem storesByte_setPair {s t : State} {a : Word} {v : Byte} (h : storesByte s t a v) (r : Reg) (w : Word) :
    storesByte s (t.setPair r w) a v := h

/-- It does not speak of the registers before it either, so a pair may be written first. -/
theorem storesByte_of_setPair {s t : State} {a : Word} {v : Byte} {r : Reg} {w : Word}
    (h : storesByte (s.setPair r w) t a v) : storesByte s t a v := h

/-! ### The obligations -/

/-- Settles O39: each of the seven, its checks passed, is the write of its byte and the advance of the pc. -/
theorem storesWriteTheirAddress : Obligations.StoresWriteTheirAddress := by
  intro s r k q a6 i a words hmem hhazard hxy hw
  have hreach : reachesAccess i s := ⟨hhazard, hxy, by rintro e rfl; simp at hmem⟩
  have hcheck {p : Pointer} {x : Reg} : indirectOperand i = some (p, x) → checkPointer p x s = .next s :=
    checkPointer_of_reachesAccess hreach
  obtain ⟨n, hn, hexec⟩ : ∃ n : PcAddr, n.toNat = words ∧
      exec i s = andThen (memWrite s a (s.reg r)) fun u => .next (u.advance n) := by
    simp only [List.mem_cons, List.not_mem_nil, or_false, Prod.mk.injEq] at hmem
    rcases hmem with h | h | h | h | h | h | h <;> obtain ⟨rfl, rfl, rfl⟩ := h
    · exact ⟨2#22, rfl, rfl⟩ -- STS
    iterate 3 exact ⟨1#22, rfl, storePlain_of_checked (hcheck rfl)⟩ -- ST
    iterate 2 exact ⟨1#22, rfl, displacedAddress_eq _ q ▸ storeDisplaced_of_checked (hcheck rfl)⟩ -- STD
    · exact ⟨1#22, rfl, ioAddress_eq a6 ▸ rfl⟩ -- OUT
  obtain ⟨u, hu, hstores, hregs, hsp, hpc, hdraws⟩ := memWrite_of_writable (s.reg r) hw
  have ⟨hcfg, _⟩ := hstores
  rw [hu, andThen_next] at hexec
  exact ⟨_, hexec, storesByte_advance hstores n, hregs, hsp, hdraws,
    hn ▸ (u.advance_pcAfter n).trans (State.pcAfter_congr hpc hcfg _)⟩

/-- Settles O40: the pointer is written after the store, over what the store may have left in it. -/
theorem storesWithPostIncrement : Obligations.StoresWithPostIncrement := by
  intro s r i p hmem hhazard hxy hw
  have hreach : reachesAccess i s := ⟨hhazard, hxy, by rintro e rfl; simp at hmem⟩
  obtain ⟨hexec, hi⟩ : exec i s = storeIncrement p r s ∧ indirectOperand i = some (p, r) := by
    simp only [List.mem_cons, List.not_mem_nil, or_false, Prod.mk.injEq] at hmem
    obtain ⟨rfl, rfl⟩ | ⟨rfl, rfl⟩ | ⟨rfl, rfl⟩ := hmem <;> exact ⟨rfl, rfl⟩
  obtain ⟨u, hu, hstores, hregs, hsp, hpc, hdraws⟩ := memWrite_of_writable (s.reg r) hw
  have ⟨hcfg, _⟩ := hstores
  rw [storeIncrement_of_memWrite (checkPointer_of_reachesAccess hreach hi) hu] at hexec
  refine ⟨_, hexec, storesByte_advance (storesByte_setPair hstores ..) 1#22, State.pair_setPair u p.lo _,
    fun n hlo hhi => ?_, hsp, hdraws, (State.advance_pcAfter _ 1#22).trans (State.pcAfter_congr hpc hcfg 1)⟩
  rw [State.advance_reg, State.reg_setPair_other u _ hlo hhi, hregs]

/-- Settles O41: the store is that of the state with the pointer moved, and all but the registers is as in the state before. -/
theorem storesWithPreDecrement : Obligations.StoresWithPreDecrement := by
  intro s r i p hmem hhazard hxy hw a u
  have hreach : reachesAccess i s := ⟨hhazard, hxy, by rintro e rfl; simp at hmem⟩
  obtain ⟨hexec, hi⟩ : exec i s = storeDecrement p r s ∧ indirectOperand i = some (p, r) := by
    simp only [List.mem_cons, List.not_mem_nil, or_false, Prod.mk.injEq] at hmem
    obtain ⟨rfl, rfl⟩ | ⟨rfl, rfl⟩ | ⟨rfl, rfl⟩ := hmem <;> exact ⟨rfl, rfl⟩
  have hwu : u.writable a := hw
  obtain ⟨t, ht, hstores, hregs, hsp, hpc, hdraws⟩ := memWrite_of_writable (s.reg r) hwu
  have ⟨hcfg, _⟩ := hstores
  rw [storeDecrement_of_memWrite (checkPointer_of_reachesAccess hreach hi) ht] at hexec
  exact ⟨_, hexec, storesByte_advance (storesByte_of_setPair hstores) 1#22, hregs, hsp, hdraws,
    (t.advance_pcAfter 1#22).trans (State.pcAfter_congr hpc hcfg 1)⟩

end Sys2Proof.Machine

/-! The MCU control instructions and the wait of a sleeping core (R210 to R213, R316, R328): what each setting makes of BREAK
and SLEEP, and what ends a sleep; O28, O29 and O53. -/

namespace Sys2Proof.Machine

/-! ### NOP, WDR, BREAK and SLEEP -/

/-- An instruction that is a mere advance of the pc: where it goes on, and its frame (R35). -/
theorem exec_effect_of_eq_advance {i : Instr} {s : State} (h : exec i s = .next (s.advance 1#22)) :
    ∃ t, exec i s = .next t ∧ t.pc = s.pcAfter 1 ∧ keepsRest s t [] [] :=
  ⟨_, h, s.advance_pcAfter 1#22, keepsRest_advance s 1#22⟩

theorem exec_brk (s : State) : exec .brk s = execBrk s := rfl

theorem exec_brk_of_refuse {s : State} (h : s.cfg.breakBehaviour = .refuse) : exec .brk s = .refused .breakRefused := by
  rw [exec_brk, execBrk, h]

theorem exec_brk_of_nop {s : State} (h : s.cfg.breakBehaviour = .nop) : exec .brk s = .next (s.advance 1#22) := by
  rw [exec_brk, execBrk, h]

theorem exec_sleep (s : State) : exec .sleep s = execSleep s := rfl

theorem exec_sleep_of_refuse {s : State} (h : s.cfg.sleepBehaviour = .refuse) :
    exec .sleep s = .refused .sleepRefused := by
  rw [exec_sleep, execSleep, h]

theorem exec_sleep_of_nop {s : State} (h : s.cfg.sleepBehaviour = .nop) : exec .sleep s = .next (s.advance 1#22) := by
  rw [exec_sleep, execSleep, h]

theorem exec_sleep_of_wait {s : State} (h : s.cfg.sleepBehaviour = .wait) :
    exec .sleep s = .next { s.advance 1#22 with sleeping := true } := by
  rw [exec_sleep, execSleep, h]

/-- Settles O28: NOP is the advance of the pc, WDR the advance after the event, which is no other part of the frame. -/
theorem nopAndWatchdogReset : Obligations.NopAndWatchdogReset := by
  intro s
  refine ⟨exec_effect_of_eq_advance rfl, ?wdr⟩
  have ⟨hregs, hflags, hsp, hspecial, hinterrupts, hram, hprogram, _⟩ :=
    keepsRest_advance (s.record (.watchdogReset s.pc)) 1#22
  exact ⟨_, rfl, State.advance_pcAfter _ 1#22, State.record_events s _, rfl, hregs, hflags, hsp, hspecial, hinterrupts,
    hram, hprogram⟩

/-- Settles O29: setting by setting; the wait adds the sleeping marker alone to the advance of the pc. -/
theorem breakAndSleepBySetting : Obligations.BreakAndSleepBySetting := by
  intro s
  refine ⟨exec_brk_of_refuse, fun h => exec_effect_of_eq_advance (exec_brk_of_nop h), exec_sleep_of_refuse,
    fun h => exec_effect_of_eq_advance (exec_sleep_of_nop h), fun h => ?wait⟩
  have ⟨hregs, hflags, hsp, hspecial, ⟨hinhibit, _, hrequests⟩, hram, hprogram, hplatform⟩ := keepsRest_advance s 1#22
  exact ⟨_, exec_sleep_of_wait h, s.advance_pcAfter 1#22, rfl, hinhibit, hrequests, hregs, hflags, hsp, hspecial, hram,
    hprogram, hplatform⟩

/-! ### The wait of a sleeping core -/

/-- An interrupt entry that ends, wherever the stack lies, wakes the core and goes to the vector (R316, R328). -/
theorem takeInterrupt_wakes {src : IrqSource} {s t : State} (h : takeInterrupt src s = .next t) :
    t.sleeping = false ∧ t.pc.toNat = src.vector.toNat % 2 ^ s.cfg.pcBits := by
  obtain ⟨-, hcfg⟩ := sameProgram_takeInterrupt h
  obtain ⟨u, -, rfl⟩ := takeInterrupt_eq_next.1 h
  have hcfg : u.cfg = s.cfg := hcfg
  refine ⟨rfl, ?_⟩
  rw [State.record_pc, State.setPc_pc, wrapPc_toNat, hcfg]

/-- When nothing can wake a sleeping core any more (R212, R314). -/
theorem State.canWake_eq_false_iff (s : State) :
    s.canWake = false ↔ s.flagI = false ∨ s.inhibit = true ∨
      ∀ requesting ∈ s.requests, ∀ src ∈ s.cfg.irqSources, src.name ∉ requesting := by
  rw [← Bool.not_eq_true, State.canWake_iff]
  cases s.flagI <;> cases s.inhibit <;> simp

/-- A pending interrupt is taken, by a sleeping core too (R315, R328). -/
theorem step_of_pendingInterrupt {s : State} {src : IrqSource} (h : pendingInterrupt s = some src) :
    step s = takeInterrupt src s.passBoundary := by
  rw [step, cycle, h]

theorem step_asleep_of_canWake {s : State} (hs : s.sleeping = true) (hp : pendingInterrupt s = none)
    (hw : s.canWake = true) : step s = .next s.passBoundary := by
  rw [step_asleep hs, hp]
  exact if_pos hw

/-- With nothing to wake the core no interrupt is pending either, so the step is the end of the wait (R212). -/
theorem step_asleep_of_not_canWake {s : State} (hs : s.sleeping = true) (hw : s.canWake = false) :
    step s = .refused .waitNeverEnds := by
  have hp : pendingInterrupt s = none :=
    Option.eq_none_iff_forall_ne_some.2 fun src h => by simp [canWake_of_pending h] at hw
  rw [step_asleep hs, hp]
  exact if_neg (by simp [hw])

/-- Settles O53: by whether an interrupt is pending, can still come, or cannot; an empty IRQ_SOURCES is a case of the last. -/
theorem sleepWaitsForInterrupt : Obligations.SleepWaitsForInterrupt := by
  intro s hs
  refine ⟨fun src t hp hstep => ?taken, fun hp hI hinh hcome => ?waiting, fun hnone => ?stuck⟩
  case taken =>
    rw [step_of_pendingInterrupt hp] at hstep
    exact takeInterrupt_wakes (s := s.passBoundary) hstep
  case waiting => exact step_asleep_of_canWake hs hp (s.canWake_iff.2 ⟨hI, hinh, hcome⟩)
  case stuck =>
    refine step_asleep_of_not_canWake hs (s.canWake_eq_false_iff.2 ?_)
    obtain hI | hinh | hempty | hunnamed := hnone
    · exact .inl hI
    · exact .inr (.inl hinh)
    · exact .inr (.inr fun _ _ src hsrc => by simp [hempty] at hsrc)
    · exact .inr (.inr hunnamed)

end Sys2Proof.Machine

/-! Jumps, branches and skips (R221 to R225, R232, R236 to R259): the pc each of them leaves, and the stop of a skip whose
following word lies outside; then O31, O32, O18, O33 and O34. -/

namespace Sys2Proof.Machine

/-! ### Jumps -/

/-- Each of the four jumps sets the pc alone, to its target by its number (R222 to R225). -/
theorem exec_eq_setPc {s : State} {k12 : BitVec 12} {k22 : PcAddr} {i : Instr} {target : Int}
    (h : (i, target) ∈
      [(Instr.rjmp k12, (s.pc.toNat : Int) + 1 + k12.toInt), (.ijmp, (s.z.toNat : Int)),
       (.eijmp, ((s.eind.toNat % 64 * 65536 + s.z.toNat : Nat) : Int)), (.jmp k22, (k22.toNat : Int))]) :
    ∃ dest : PcAddr, exec i s = .next (s.setPc dest) ∧
      ((wrapPc s.cfg dest).toNat : Int) = target % (2 ^ s.cfg.pcBits : Nat) := by
  simp only [List.mem_cons, List.not_mem_nil, or_false, Prod.mk.injEq] at h
  obtain ⟨rfl, rfl⟩ | ⟨rfl, rfl⟩ | ⟨rfl, rfl⟩ | ⟨rfl, rfl⟩ := h
  · exact ⟨s.target12 k12, rfl, wrapPc_target12 s k12⟩
  · exact ⟨s.plainZ, rfl, by rw [wrapPc_toNat_int, plainZ_toNat]⟩
  · exact ⟨s.extendedZ, rfl, by rw [wrapPc_toNat_int, extendedZ_toNat]⟩
  · exact ⟨k22, rfl, wrapPc_toNat_int s.cfg k22⟩

/-- Settles O31: each jump is a write of the pc. -/
theorem jumpsSetThePc : Obligations.JumpsSetThePc := by
  intro s k12 k22 i target hmem
  obtain ⟨dest, hexec, hdest⟩ := exec_eq_setPc hmem
  exact ⟨s.setPc dest, hexec, hdest, keepsRest_setPc s dest⟩

/-! ### Branches -/

/-- The target of a branch (R240). -/
theorem wrapPc_target7 (s : State) (k : BitVec 7) : wrapPc s.cfg (s.target7 k) = s.pcRelative k.toInt := by
  rw [State.target7, wrapPc_relative, BitVec.toInt_signExtend_of_le (by decide)]

/-- A branch ends with the pc of its outcome, and changes nothing else (R240, R241). -/
theorem branchIf_effect (taken : Bool) (k : BitVec 7) (s : State) :
    ∃ t, branchIf taken k s = .next t ∧ t.pc = (if taken then s.pcRelative k.toInt else s.pcAfter 1) ∧
      keepsRest s t [] [] := by
  cases taken
  case false => exact ⟨_, rfl, s.advance_pcAfter 1#22, keepsRest_advance s 1#22⟩
  case true => exact ⟨_, rfl, wrapPc_target7 s k, keepsRest_setPc s (s.target7 k)⟩

/-- Settles O32: each of the twenty is `branchIf` on the bit of SREG that is its flag. -/
theorem branchesTestOneFlag : Obligations.BranchesTestOneFlag := by
  intro s m k i taken hmem
  have hexec : exec i s = branchIf taken k s := by
    simp only [List.mem_cons, List.not_mem_nil, or_false, Prod.mk.injEq] at hmem
    rcases hmem with h | h | h | h | h | h | h | h | h | h | h | h | h | h | h | h | h | h | h | h <;>
      obtain ⟨rfl, rfl⟩ := h <;> rfl
  rw [hexec]
  exact branchIf_effect taken k s

/-! ### Branches after CP -/

/-- What the flags say after CP: Z equality, C the unsigned order, S the signed order (R131, R233). -/
theorem flags_of_exec_cp {s t : State} {d r : Reg} (h : exec (.cp d r) s = .next t) :
    t.flagZ = decide (s.reg d = s.reg r) ∧ t.flagC = decide ((s.reg d).toNat < (s.reg r).toNat) ∧
      t.flagS = decide ((s.reg d).toInt < (s.reg r).toInt) := by
  change compareBytes (s.reg d) (s.reg r) false false s = .next t at h
  have hleaves := compareBytes_leaves h
  obtain ⟨-, hS⟩ := compareBytes_signedFlags h
  refine ⟨?equal, ?unsigned, ?signed⟩
  case equal =>
    have hd := (s.reg d).isLt
    have hr := (s.reg r).isLt
    rw [hleaves.flagZ, subFlags_z, Bool.eq_iff_iff]
    simp only [subResult_toNat, Bool.toNat_false, Bool.not_false, Bool.true_or, Bool.and_true, decide_eq_true_eq,
      ← BitVec.toNat_inj]
    omega
  case unsigned => exact hleaves.flagC
  case signed =>
    rw [hS, decide_eq_decide, Bool.toNat_false]
    omega

/-- Settles O18: each of the six is `branchIf` on a flag that CP left. -/
theorem branchesAfterCompare : Obligations.BranchesAfterCompare := by
  intro s t u d r k i taken hcp hmem hbranch
  obtain ⟨hZ, hC, hS⟩ := flags_of_exec_cp hcp
  have hexec : exec i t = branchIf taken k t := by
    simp only [ne_eq, ← Nat.not_lt, ← Int.not_lt, decide_not, ← hZ, ← hC, ← hS, List.mem_cons, List.not_mem_nil, or_false,
      Prod.mk.injEq] at hmem
    obtain ⟨rfl, rfl⟩ | ⟨rfl, rfl⟩ | ⟨rfl, rfl⟩ | ⟨rfl, rfl⟩ | ⟨rfl, rfl⟩ | ⟨rfl, rfl⟩ := hmem <;> rfl
  obtain ⟨v, hv, hpc, -⟩ := branchIf_effect taken k t
  obtain rfl : v = u := Host.Outcome.next.inj (hv.symm.trans (hexec.symm.trans hbranch))
  exact hpc

/-! ### Skips -/

/-- How far a skip goes: over the whole following instruction when it is taken (R221). -/
def State.skipLength (s : State) (taken : Bool) : PcAddr :=
  if taken then (if isTwoWord s.followingWord then 3#22 else 2#22) else 1#22

theorem State.skipLength_toNat (s : State) (taken : Bool) :
    (s.skipLength taken).toNat = if taken then (if isTwoWord s.followingWord then 3 else 2) else 1 := by
  simp only [State.skipLength, apply_ite BitVec.toNat, BitVec.toNat_ofNat]

/-- A skip that reads no word outside `FLASH_WORDS` goes on by its length. -/
theorem skip_of_inside {s : State} {taken : Bool} (h : taken = true → (s.pcAfter 1).toNat < s.cfg.programWords) :
    skip taken s = .next (s.advance (s.skipLength taken)) := by
  cases taken
  case false => exact skip_false s
  case true => exact skip_true (h rfl)

/-- A skip that is taken faults when the following word lies outside `FLASH_WORDS` (R221). -/
theorem skip_of_outside {s : State} {taken : Bool} (h : taken = true) (hout : s.cfg.programWords ≤ (s.pcAfter 1).toNat) :
    skip taken s = .fault (.programOutside (s.pcAfter 1).toNat) := by
  rw [skip_eq_fault]
  exact ⟨_, by simp [skipAddresses, h], rfl, hout⟩

/-- Where a skip leaves the pc. -/
theorem State.advance_skipLength_pc (s : State) (taken : Bool) :
    (s.advance (s.skipLength taken)).pc =
      s.pcAfter (if taken then (if isTwoWord s.followingWord then 3 else 2) else 1) := by
  rw [State.advance_pcAfter, State.skipLength_toNat]

/-- Settles O33: each of the three is `skip`. -/
theorem registerSkips : Obligations.RegisterSkips := by
  intro s d r b i cond hmem
  have hexec : exec i s = skip cond s := by
    simp only [List.mem_cons, List.not_mem_nil, or_false, Prod.mk.injEq] at hmem
    obtain ⟨rfl, rfl⟩ | ⟨rfl, rfl⟩ | ⟨rfl, rfl⟩ := hmem <;> rfl
  rw [hexec]
  exact ⟨fun hin => ⟨_, skip_of_inside hin, keepsRest_advance s _, s.advance_skipLength_pc cond⟩, skip_of_outside⟩

/-! ### Skips on I/O bits -/

/-- The read of a platform location: a draw, and an event (R63). -/
theorem memRead_of_platform {s : State} {a : Word} (h : placeOf s.cfg a = .platform) :
    memRead s a = .next (readPlatform s a) := by
  rw [memRead, h]

/-- Settles O34: both are `skip`, in the state that the read of the location left. -/
theorem ioBitSkips : Obligations.IoBitSkips := by
  intro s a b i cond hmem hin
  have hread : memRead s (ioBitAddress a) = .next (readPlatform s (ioBitAddress a)) :=
    memRead_of_platform (ioBitAddress_eq a ▸ placeOf_ioBit hin)
  have hexec : exec i s = skip cond (readPlatform s (ioBitAddress a)).2 := by
    simp only [List.mem_cons, List.not_mem_nil, or_false, Prod.mk.injEq] at hmem
    obtain ⟨rfl, rfl⟩ | ⟨rfl, rfl⟩ := hmem <;> simp only [exec, execSbic, execSbis, hread, andThen_next] <;> rfl
  rw [hexec, ioBitAddress_eq]
  generalize BitVec.ofNat 16 (a.toNat + 0x20) = address
  have ⟨hregs, hflags, hsp, hspecial, hinterrupts, hram, hprogram, _⟩ :=
    keepsRest_advance (readPlatform s address).2 ((readPlatform s address).2.skipLength cond)
  exact ⟨fun hinside => ⟨_, skip_of_inside hinside, State.advance_skipLength_pc _ cond, rfl, rfl, hregs, hflags, hsp,
    hspecial, hinterrupts, hram, hprogram⟩, skip_of_outside (s := (readPlatform s address).2)⟩

end Sys2Proof.Machine

/-! Calls wherever SP points, and the way back from a call (R69, R220, R226 to R230): a call is PushPC and then the jump, and
the bytes PushPC left in RAM are those PopPC makes the pc of; then O45 and O48. -/

namespace Sys2Proof.Machine

/-! ### Calls wherever SP points -/

/-- What follows the first of a sequence matters only where the first ends. -/
theorem andThen_congr {α β : Type} {x : Result α} {f g : α → Result β} (h : ∀ a, x = .next a → f a = g a) :
    andThen x f = andThen x g := by
  cases x
  case next a => exact h a rfl
  case fault => rfl
  case refused => rfl

/-- The pushes of an address store to the data space alone, so that they keep the parameters (R69, R80). -/
theorem pushPc_keeps_cfg {s u : State} {ret : PcAddr} (h : pushPc s ret = .next u) : u.cfg = s.cfg := by
  have hupdates : Updates (pushAddresses s ret) false s u := (Updates.refl s).pushPc (fun _ ha => ha) h
  exact (sameProgram_of_updates hupdates).2

/-- A call is PushPC of the following address, then the target within 2^PC_BITS in the pc (R220). -/
theorem callTo_eq_andThen (words dest : PcAddr) (s : State) :
    callTo words dest s =
      andThen (pushPc s (s.pcAfter words.toNat)) fun u => .next { u with pc := wrapPc s.cfg dest } := by
  rw [callTo, State.returnAddress, wrapPc_add]
  refine andThen_congr fun u hpush => ?_
  rw [State.setPc, pushPc_keeps_cfg hpush]

/-- Settles O45: each call is `callTo`, at its target by its number. -/
theorem callsPushThenJump : Obligations.CallsPushThenJump := by
  intro s k12 k22 i n target hmem
  obtain ⟨words, dest, hexec, rfl, hdest⟩ := exec_eq_callTo hmem
  have htarget : BitVec.ofNat 22 (target % (2 ^ s.cfg.pcBits : Nat)).toNat = wrapPc s.cfg dest := by
    rw [← hdest, Int.toNat_natCast, BitVec.ofNat_toNat, BitVec.setWidth_eq]
  rw [hexec, callTo_eq_andThen, htarget]

/-! ### The way back -/

/-- The three bytes of a program address, as a number (R69). -/
theorem pushed_toNat (ret : PcAddr) :
    (BitVec.ofNat 8 (ret.toNat / 65536)).toNat * 65536 + (BitVec.ofNat 8 (ret.toNat / 256)).toNat * 256 +
      (BitVec.ofNat 8 ret.toNat).toNat = ret.toNat := by
  have hret := ret.isLt
  simp only [BitVec.toNat_ofNat]
  omega

/-- A return address pushed on a stack in RAM is there for PopPC in every state `u` with the same SP and the same bytes. -/
theorem stackShows_of_pushesReturn {s t u : State} {ret : PcAddr} (hret : ret.toNat < 2 ^ s.cfg.pcBits)
    (hroom : s.pushRoom) (hpush : pushesReturn s t ret) (hcfg : u.cfg = s.cfg) (hsp : u.sp = t.sp)
    (hkept : ∀ j, j < s.cfg.pcBytes → u.ramByte (s.sp - BitVec.ofNat 16 j) = t.ramByte (s.sp - BitVec.ofNat 16 j)) :
    stackShows u (BitVec.ofNat 8 (ret.toNat / 65536)) (BitVec.ofNat 8 (ret.toNat / 256)) (BitVec.ofNat 8 ret.toNat) := by
  obtain ⟨hpushed, hlow, hmiddle, hhigh, -⟩ := hpush
  have htop : u.sp + BitVec.ofNat 16 s.cfg.pcBytes = s.sp - BitVec.ofNat 16 0 := by
    rw [hsp, hpushed]
    bv_omega
  have hsecond : u.sp + BitVec.ofNat 16 s.cfg.pcBytes - 1#16 = s.sp - BitVec.ofNat 16 1 := by
    rw [htop]
    bv_omega
  have hbytes : 1 < s.cfg.pcBytes := by
    rcases pcBytes_cases s.cfg with ⟨-, hb, -⟩ | ⟨-, hb, -⟩ <;> omega
  rw [stackShows, hcfg, hsecond, htop]
  refine ⟨fun hb => ?three, fun hb => ?two, hroom 1 hbytes, (hkept 1 hbytes).trans hmiddle, hroom 0 (by omega),
    (hkept 0 (by omega)).trans (by simpa using hlow)⟩
  case three =>
    have hthird : u.sp + 1#16 = s.sp - BitVec.ofNat 16 2 := by
      rw [hsp, hpushed, hb]
      bv_omega
    rw [hthird]
    exact ⟨hroom 2 (by omega), (hkept 2 (by omega)).trans (hhigh hb)⟩
  case two =>
    have hbits : s.cfg.pcBits = 16 := by
      rcases pcBytes_cases s.cfg with ⟨-, -, hbits⟩ | ⟨-, hb3, -⟩ <;> omega
    have hsmall : ret.toNat < 65536 := by simpa [hbits] using hret
    rw [Nat.div_eq_of_lt hsmall]

/-- The following address lies within 2^PC_BITS (R36). -/
theorem State.pcAfter_lt (s : State) (n : PcAddr) : (s.pcAfter n.toNat).toNat < 2 ^ s.cfg.pcBits :=
  wrapPc_add s n ▸ wrapPc_lt s.cfg (s.pc + n)

/-- Settles O48: the bytes the call pushed are those RET pops, and SP comes back by as much as it went. -/
theorem callThenReturnComesBack : Obligations.CallThenReturnComesBack := by
  intro s t u k12 k22 i n hmem hroom hcall hcfg hsp hkept
  obtain ⟨words, dest, hexec, rfl⟩ : ∃ words dest : PcAddr, exec i s = callTo words dest s ∧ words.toNat = n := by
    simp only [List.mem_cons, List.not_mem_nil, or_false, Prod.mk.injEq] at hmem
    obtain ⟨rfl, rfl⟩ | ⟨rfl, rfl⟩ | ⟨rfl, rfl⟩ | ⟨rfl, rfl⟩ := hmem <;> exact ⟨_, _, rfl, rfl⟩
  obtain ⟨sp, ram, hcallTo, hpush⟩ := callTo_of_room words dest hroom
  obtain rfl : { s with sp := sp, ram := ram, pc := wrapPc s.cfg dest } = t :=
    Host.Outcome.next.inj (hcallTo.symm.trans (hexec.symm.trans hcall))
  have hret := s.pcAfter_lt words
  have hshows := stackShows_of_pushesReturn hret hroom hpush hcfg hsp hkept
  refine ⟨_, exec_ret_of_shows hshows, ?pc, ?sp, fun _ _ => rfl, fun _ _ => rfl⟩
  case pc =>
    apply BitVec.eq_of_toNat_eq
    rw [State.setPc_pc, State.setSp_cfg, wrapPc_popped_toNat, hcfg, pushed_toNat, Nat.mod_eq_of_lt hret]
  case sp =>
    obtain ⟨hpushed, -⟩ := hpush
    rw [State.setPc_sp, State.setSp_sp, hcfg, hsp]
    exact hpushed ▸ BitVec.sub_add_cancel s.sp _

end Sys2Proof.Machine

/-! Shifts and single bits (R273, R275, R276, R278 to R297): the results of the right shifts as numbers, the one form of the
eighteen flag instructions; then O24, O25 and O26. -/

namespace Sys2Proof.Machine

/-! ### Right shifts -/

/-- LSR's result is half the unsigned value (R273). -/
theorem ushiftRight_one_eq_ofNat (v : Byte) : v >>> 1 = BitVec.ofNat 8 (v.toNat / 2) := by
  apply BitVec.eq_of_toNat_eq
  simp only [BitVec.toNat_ushiftRight, Nat.shiftRight_eq_div_pow, BitVec.toNat_ofNat]
  omega

/-- ROR's result is half the unsigned value, with the carry as bit 7 (R275). -/
theorem rotateRight_eq_ofNat (v : Byte) (c : Bool) :
    BitVec.ofBool c ++ v.extractLsb' 1 7 = BitVec.ofNat 8 (128 * c.toNat + v.toNat / 2) := by
  have hv := v.isLt
  have hlow : (v.extractLsb' 1 7).toNat < 2 ^ 7 := BitVec.isLt _
  apply BitVec.eq_of_toNat_eq
  rw [BitVec.toNat_append, ← Nat.shiftLeft_add_eq_or_of_lt hlow, Nat.shiftLeft_eq]
  simp only [BitVec.extractLsb'_toNat, Nat.shiftRight_eq_div_pow, BitVec.toNat_ofBool, BitVec.toNat_ofNat]
  have hc := c.toNat_le
  omega

/-- ASR's result is half the signed value, rounded down (R276). -/
theorem sshiftRight_one_eq_ofInt (v : Byte) : v.sshiftRight 1 = BitVec.ofInt 8 (v.toInt / 2) := by
  rw [BitVec.sshiftRight, Int.shiftRight_eq_div_pow]
  rfl

/-- The bit shifted out is the parity of the old value (R273, R275, R276). -/
theorem getLsbD_zero_eq_odd (v : Byte) : v.getLsbD 0 = decide (v.toNat % 2 = 1) := by
  rw [BitVec.getLsbD, Nat.testBit_zero]

/-- A right shift leaves its result, the flags of the old byte and the result, the next pc, and the rest as before. -/
theorem shiftInto_leaves {d : Reg} {res : Byte} {s t : State} (h : shiftInto d res s = .next t) :
    t.reg d = res ∧ t.ShowsFlags (shiftRightFlags (s.reg d) res) ∧ t.pc = s.pcAfter 1 ∧
      keepsRest s t [d] [0#3, 1#3, 2#3, 3#3, 4#3] := by
  cases h
  exact ⟨by simp, showsFlags_setSVNZC .., State.advance_pcAfter _ 1#22,
    keepsRest_compute 1#22 (keepsRest_setReg ..) (keepsRest_setSVNZC ..)⟩

/-- Settles O24: the three are one operation, whose results the lemmas above name as numbers. -/
theorem rightShiftsAndRotate : Obligations.RightShiftsAndRotate := by
  intro s d i res hmem
  have hexec : exec i s = shiftInto d res s := by
    simp only [List.mem_cons, List.not_mem_nil, or_false, Prod.mk.injEq] at hmem
    obtain ⟨rfl, rfl⟩ | ⟨rfl, rfl⟩ | ⟨rfl, rfl⟩ := hmem
    · exact congrArg (shiftInto d · s) (ushiftRight_one_eq_ofNat _) -- LSR
    · exact congrArg (shiftInto d · s) (rotateRight_eq_ofNat _ _) -- ROR
    · exact congrArg (shiftInto d · s) (sshiftRight_one_eq_ofInt _) -- ASR
  obtain ⟨t, ht⟩ : ∃ t, shiftInto d res s = .next t := ⟨_, rfl⟩
  obtain ⟨hreg, hflags, hpc, hrest⟩ := shiftInto_leaves ht
  have hv : t.flagV = (t.flagN ^^ t.flagC) := by
    rw [hflags.flagV, hflags.flagN, hflags.flagC]
    rfl
  exact ⟨t, hexec.trans ht, hreg, hflags.flagC.trans (getLsbD_zero_eq_odd _), hflags.flagN,
    hflags.flagZ.trans (beq_zero_eq_decide_toNat _), hv, hflags.flagS, hpc, hrest⟩

/-! ### The flag instructions -/

/-- I goes from 0 to 1 exactly when the flag set is I and was 0 (R318). -/
theorem raisesI_withBit (s : State) (n : BitVec 3) (x : Bool) :
    (!s.sreg.getLsbD 7 && (withBit s.sreg n x).getLsbD 7) = (x && decide (n = 7#3) && !s.flagI) := by
  have hbit : (withBit s.sreg n x).getLsbD 7 = if 7#3 = n then x else s.flagI := bitOf_withBit s.sreg n 7#3 x
  rw [hbit, State.flagI]
  by_cases hn : n = 7#3
  · simp [hn, Bool.and_comm]
  · simp [hn, Ne.symm hn]

/-- Clearing a flag never raises I, so that BCLR too writes SREG with the look at I (R279, R318). -/
theorem setSreg_withBit_false (s : State) (n : BitVec 3) :
    s.setSreg (withBit s.sreg n false) = s.writeSreg (withBit s.sreg n false) := by
  rw [State.setSreg, State.writeSreg, raisesI_withBit, Bool.false_and, Bool.false_and, Bool.or_false]

theorem exec_bset (s : State) (n : BitVec 3) :
    exec (.bset n) s = .next ((s.writeSreg (withBit s.sreg n true)).advance 1#22) := rfl

theorem exec_bclr (s : State) (n : BitVec 3) :
    exec (.bclr n) s = .next ((s.writeSreg (withBit s.sreg n false)).advance 1#22) := by
  rw [← setSreg_withBit_false]
  rfl

/-- Settles O25: each of the eighteen is BSET or BCLR of its flag, a write of SREG with that one bit made `x`. -/
theorem flagInstructionsWriteOneFlag : Obligations.FlagInstructionsWriteOneFlag := by
  intro s m i n x hmem
  have hexec : exec i s = .next ((s.writeSreg (withBit s.sreg n x)).advance 1#22) := by
    simp only [List.mem_cons, List.not_mem_nil, or_false, Prod.mk.injEq] at hmem
    rcases hmem with h | h | h | h | h | h | h | h | h | h | h | h | h | h | h | h | h | h <;>
      obtain ⟨rfl, rfl, rfl⟩ := h
    iterate 9 exact exec_bset s _ -- BSET and its eight names
    iterate 9 exact exec_bclr s _ -- BCLR and its eight names
  have hbit (k : BitVec 3) : bitOf (withBit s.sreg n x) k = if k = n then x else bitOf s.sreg k :=
    bitOf_withBit s.sreg n k x
  refine ⟨_, hexec, (hbit n).trans (if_pos rfl), fun k hk => (hbit k).trans (if_neg (by simpa using hk)), ?inhibit,
    State.advance_pcAfter _ 1#22, fun _ _ => rfl, rfl, ⟨rfl, rfl, rfl⟩, rfl, rfl, fun _ => rfl, fun _ => rfl, rfl, rfl⟩
  case inhibit => rw [State.advance_inhibit, State.writeSreg_inhibit, raisesI_withBit]

/-! ### BST and BLD -/

/-- Settles O26: BST writes bit 6 of SREG, BLD bit b of the register, each from the other. -/
theorem bitStoreAndLoad : Obligations.BitStoreAndLoad := by
  refine fun s r b => ⟨⟨_, rfl, ?bst⟩, ?bld⟩
  case bst =>
    have hbit (n : BitVec 3) : bitOf (withBit s.sreg 6#3 (bitOf (s.reg r) b)) n =
        if n = 6#3 then bitOf (s.reg r) b else bitOf s.sreg n := bitOf_withBit ..
    exact ⟨hbit 6#3, State.advance_pcAfter _ 1#22, keepsRest_trans
      (keepsRest_setSreg s _ [6#3] fun n hn => (hbit n).trans (if_neg (by simpa using hn))) (keepsRest_advance _ 1#22)⟩
  case bld =>
    obtain ⟨t, ht, hreg, hpc, hrest⟩ := exec_setReg_effect (i := .bld r b) (s := s) rfl
    have hbit (n : BitVec 3) : bitOf (t.reg r) n = if n = b then s.flagT else bitOf (s.reg r) n :=
      hreg ▸ bitOf_withBit ..
    exact ⟨t, ht, (hbit b).trans (if_pos rfl), fun n hn => (hbit n).trans (if_neg hn), hpc, hrest⟩

end Sys2Proof.Machine

/-! What raises I or changes RAMPZ and EIND (R41, R42, R314, R318): no elementary update but a store at the register's own
address, and for I what BSET 7, SEI and RETI hold; then O60. -/

namespace Sys2Proof.Machine

/-! ### The addresses of the CPU's own registers -/

/-- The one address at which the map has a register of the CPU (R40 to R43). -/
def Place.ownAddress : Place → Option Word
  | .rampz => some rampzAddr
  | .eind => some eindAddr
  | .spl => some splAddr
  | .sph => some sphAddr
  | .sreg => some sregAddr
  | _ => none

theorem eq_of_ownAddress {c : Config} {a b : Word} (h : (placeOf c a).ownAddress = some b) : a = b := by
  unfold placeOf at h
  repeat' split at h
  all_goals simp_all [Place.ownAddress]

/-- A place with an address of its own is at no other. -/
theorem placeOf_ne_of_ownAddress {c : Config} {a b : Word} {p : Place} (hp : p.ownAddress = some b) (ha : a ≠ b) :
    placeOf c a ≠ p :=
  fun h => ha (eq_of_ownAddress (h ▸ hp))

/-! ### RAMPZ and EIND -/

theorem Update.keeps_rampz {A : List Word} {e : Bool} {s t : State} (hu : Update A e s t) (ha : rampzAddr ∉ A) :
    t.rampz = s.rampz := by
  cases hu with
  | store _ a v hmem hw =>
    obtain ⟨-, ⟨-, hrampz, -⟩, -⟩ := memWrite_eq_next hw
    exact hrampz.trans (if_neg (placeOf_ne_of_ownAddress rfl (ne_of_mem_of_not_mem hmem ha)))
  | _ => rfl

theorem Update.keeps_eind {A : List Word} {e : Bool} {s t : State} (hu : Update A e s t) (ha : eindAddr ∉ A) :
    t.eind = s.eind := by
  cases hu with
  | store _ a v hmem hw =>
    obtain ⟨-, ⟨-, -, heind, -⟩, -⟩ := memWrite_eq_next hw
    exact heind.trans (if_neg (placeOf_ne_of_ownAddress rfl (ne_of_mem_of_not_mem hmem ha)))
  | _ => rfl

/-! ### I and the inhibit through a store -/

/-- I and the inhibit of `t` are those of `s`. -/
structure SameI (s t : State) : Prop where
  flagI : t.flagI = s.flagI
  inhibit : t.inhibit = s.inhibit

theorem SameI.trans {s t u : State} (h1 : SameI s t) (h2 : SameI t u) : SameI s u :=
  ⟨h2.flagI.trans h1.flagI, h2.inhibit.trans h1.inhibit⟩

/-- From `s` to `t` the inhibit is set exactly if I went from 0 to 1, taken as one change (R318). -/
def TracksI (s t : State) : Prop := t.inhibit = (s.inhibit || (!s.flagI && t.flagI))

theorem SameI.trans_tracksI {s t u : State} (h1 : SameI s t) (h2 : TracksI t u) : TracksI s u := by
  rw [TracksI, ← h1.flagI, ← h1.inhibit]
  exact h2

theorem TracksI.trans_sameI {s t u : State} (h1 : TracksI s t) (h2 : SameI t u) : TracksI s u := by
  rw [TracksI, h2.flagI, h2.inhibit]
  exact h1

theorem SameI.tracksI {s t : State} (h : SameI s t) : TracksI s t := by
  rw [TracksI, h.flagI, h.inhibit, Bool.not_and_self, Bool.or_false]

theorem writeSreg_tracksI (s : State) (v : Byte) : TracksI s (s.writeSreg v) := rfl

/-- A store off SREG leaves I and the inhibit alone (R318). -/
theorem memWrite_sameI {s t : State} {a : Word} {v : Byte} (hw : memWrite s a v = .next t)
    (ha : placeOf s.cfg a ≠ .sreg) : SameI s t := by
  obtain ⟨-, ⟨-, -, -, hsreg, hinhibit, -⟩, -⟩ := memWrite_eq_next hw
  rw [if_neg ha] at hsreg
  exact ⟨congrArg (BitVec.getLsbD · 7) hsreg, by simpa [ha] using hinhibit⟩

/-- A store sets the inhibit exactly if it raises I, wherever it goes (R318). -/
theorem memWrite_tracksI {s t : State} {a : Word} {v : Byte} (hw : memWrite s a v = .next t) : TracksI s t := by
  by_cases ha : placeOf s.cfg a = .sreg
  case neg => exact (memWrite_sameI hw ha).tracksI
  case pos =>
    obtain ⟨-, ⟨-, -, -, hsreg, hinhibit, -⟩, -⟩ := memWrite_eq_next hw
    rw [if_pos ha] at hsreg
    rw [TracksI, hinhibit, State.flagI, State.flagI, hsreg, bit7, decide_eq_true ha, Bool.true_and]

/-! ### Updates that raise no I -/

/-- I was 1 before if it is after, and the inhibit is as before. -/
structure RaisesNoI (s t : State) : Prop where
  flagI : t.flagI = true → s.flagI = true
  inhibit : t.inhibit = s.inhibit

theorem RaisesNoI.tracksI {s t : State} (h : RaisesNoI s t) : TracksI s t := by
  have hI := h.flagI
  rw [TracksI, h.inhibit]
  cases hs : s.flagI <;> simp_all

/-- No update raises I but a store at SREG and what is allowed to set it (R314). -/
theorem Update.raisesNoI {A : List Word} {s t : State} (hu : Update A false s t) (ha : sregAddr ∉ A) : RaisesNoI s t := by
  cases hu with
  | setSreg v hv => exact ⟨hv, rfl⟩
  | enableI v h => cases h
  | store _ a v hmem hw =>
    have hsame : SameI s t := memWrite_sameI hw (placeOf_ne_of_ownAddress rfl (ne_of_mem_of_not_mem hmem ha))
    exact ⟨fun h => hsame.flagI ▸ h, hsame.inhibit⟩
  | _ => exact ⟨id, rfl⟩

theorem raisesNoI_of_updates {A : List Word} {s t : State} (h : Updates A false s t) (ha : sregAddr ∉ A) :
    RaisesNoI s t :=
  h.keep (P := RaisesNoI s) (fun hu hs => ⟨hs.flagI ∘ (hu.raisesNoI ha).flagI, (hu.raisesNoI ha).inhibit.trans hs.inhibit⟩)
    ⟨id, rfl⟩

theorem eq_of_enablesI {i : Instr} (h : enablesI i = true) : i = .bset 7#3 ∨ i = .sei ∨ i = .reti := by
  unfold enablesI at h
  split at h
  case h_1 n => exact .inl (congrArg Instr.bset (eq_of_beq h))
  case h_2 => exact .inr (.inl rfl)
  case h_3 => exact .inr (.inr rfl)
  case h_4 => cases h

/-- Settles O60: an instruction is a sequence of updates that store at its store addresses only, and none of them changes one of
the three but a store at its address, or for I what only BSET 7, SEI and RETI hold. -/
theorem onlyNamedInstructionsChangeControl : Obligations.OnlyNamedInstructionsChangeControl := by
  intro i s t h
  have hupdates := exec_updates h
  refine ⟨fun hs ht => ?flagI, fun hne => ?rampz, fun hne => ?eind⟩
  case flagI =>
    cases he : enablesI i with
    | true =>
      obtain hi | hi | hi := eq_of_enablesI he
      · exact .inl hi
      · exact .inr (.inl hi)
      · exact .inr (.inr (.inl hi))
    | false =>
      refine .inr (.inr (.inr (by_contra fun hmem => ?_)))
      rw [he] at hupdates
      have hraised : s.flagI = true := (raisesNoI_of_updates hupdates hmem).flagI ht
      rw [hs] at hraised
      cases hraised
  case rampz =>
    exact by_contra fun hmem => hne <|
      hupdates.keep (P := fun u => u.rampz = s.rampz) (fun hu hs => (hu.keeps_rampz hmem).trans hs) rfl
  case eind =>
    exact by_contra fun hmem => hne <|
      hupdates.keep (P := fun u => u.eind = s.eind) (fun hu hs => (hu.keeps_eind hmem).trans hs) rfl

end Sys2Proof.Machine

/-! The inhibit after an instruction (R318, log 18): every instruction takes I from 0 to 1 by one write of SREG at most, since no
two pushes of a call are both at SREG, and that write sets the inhibit; then O51. -/

namespace Sys2Proof.Machine

/-! ### I and the inhibit through the stack -/

/-- What a push does: the store at SP, then SP less one (R13). -/
theorem push8_eq_next {s t : State} {v : Byte} (h : push8 s v = .next t) :
    ∃ u, memWrite s s.sp v = .next u ∧ t = u.setSp (u.sp - 1#16) := by
  obtain ⟨u, hw, ht⟩ := andThen_eq_next.1 h
  cases ht
  exact ⟨u, hw, rfl⟩

theorem push8_sp {s t : State} {v : Byte} (h : push8 s v = .next t) : t.sp = s.spAfterStore s.sp v - 1#16 := by
  obtain ⟨u, hw, rfl⟩ := push8_eq_next h
  obtain ⟨-, -, -, hsp, -⟩ := memWrite_eq_next hw
  rw [State.setSp_sp, hsp]

theorem push8_tracksI {s t : State} {v : Byte} (h : push8 s v = .next t) : TracksI s t := by
  obtain ⟨u, hw, rfl⟩ := push8_eq_next h
  exact memWrite_tracksI (t := u) hw

theorem push8_sameI {s t : State} {v : Byte} (h : push8 s v = .next t) (hs : placeOf s.cfg s.sp ≠ .sreg) : SameI s t := by
  obtain ⟨u, hw, rfl⟩ := push8_eq_next h
  have hsame : SameI s u := memWrite_sameI hw hs
  exact ⟨hsame.flagI, hsame.inhibit⟩

/-- A push at SREG leaves SP at SPH (R40, R43). -/
theorem push8_sp_of_sreg {s t : State} {v : Byte} (h : push8 s v = .next t) (hs : placeOf s.cfg s.sp = .sreg) :
    t.sp = sphAddr := by
  have hsp : s.sp = sregAddr := eq_of_ownAddress (congrArg Place.ownAddress hs)
  rw [push8_sp h, State.spAfterStore, hs, hsp]
  show sregAddr - 1#16 = sphAddr
  decide

/-- A push at SPH, which writes the high byte of SP alone, leaves SP off SREG (R40, log 17). -/
theorem push8_sp_of_sph {s t : State} {v : Byte} (h : push8 s v = .next t) (hs : s.sp = sphAddr) : t.sp ≠ sregAddr := by
  have hspl : placeOf s.cfg sphAddr ≠ .spl := placeOf_ne_of_ownAddress rfl (by decide)
  rw [push8_sp h, State.spAfterStore, hs]
  split
  next hplace => exact absurd hplace hspl
  next =>
    clear h
    revert v
    decide
  next => decide

/-- Two pushes in sequence are not both at SREG, nor are the first and the third of three. -/
theorem placeOf_sp_ne_sreg {s s1 s2 : State} {v w : Byte} (h1 : push8 s v = .next s1) (h2 : push8 s1 w = .next s2)
    (hs : placeOf s.cfg s.sp = .sreg) : placeOf s1.cfg s1.sp ≠ .sreg ∧ placeOf s2.cfg s2.sp ≠ .sreg := by
  have hsp : s1.sp = sphAddr := push8_sp_of_sreg h1 hs
  exact ⟨placeOf_ne_of_ownAddress rfl (hsp ▸ by decide), placeOf_ne_of_ownAddress rfl (push8_sp_of_sph h2 hsp)⟩

/-- PushPC is two pushes, or three (R69). -/
theorem pushPc_eq_next {s t : State} {ret : PcAddr} (h : pushPc s ret = .next t) :
    ∃ v w s1 s2, push8 s v = .next s1 ∧ push8 s1 w = .next s2 ∧ (t = s2 ∨ ∃ x, push8 s2 x = .next t) := by
  obtain ⟨s1, h1, h⟩ := andThen_eq_next.1 h
  obtain ⟨s2, h2, h⟩ := andThen_eq_next.1 h
  refine ⟨_, _, s1, s2, h1, h2, ?_⟩
  split at h
  · cases h
    exact .inl rfl
  · exact .inr ⟨_, h⟩

/-- A third push off SREG changes nothing of I, nor does its absence. -/
theorem sameI_of_third_push {s t : State} (h : t = s ∨ ∃ x, push8 s x = .next t) (hs : placeOf s.cfg s.sp ≠ .sreg) :
    SameI s t := by
  obtain rfl | ⟨x, hx⟩ := h
  · exact ⟨rfl, rfl⟩
  · exact push8_sameI hx hs

/-- The pushes of an address raise I at most once, by the one that is at SREG, and set the inhibit with it (R69, R318; log 18). -/
theorem pushPc_tracksI {s t : State} {ret : PcAddr} (h : pushPc s ret = .next t) : TracksI s t := by
  obtain ⟨v, w, s1, s2, h1, h2, h3⟩ := pushPc_eq_next h
  by_cases hfirst : placeOf s.cfg s.sp = .sreg
  case pos =>
    obtain ⟨hsecond, hthird⟩ := placeOf_sp_ne_sreg h1 h2 hfirst
    exact ((push8_tracksI h1).trans_sameI (push8_sameI h2 hsecond)).trans_sameI (sameI_of_third_push h3 hthird)
  case neg =>
    refine (push8_sameI h1 hfirst).trans_tracksI ?_
    by_cases hsecond : placeOf s1.cfg s1.sp = .sreg
    case pos =>
      have hthird : s2.sp = sphAddr := push8_sp_of_sreg h2 hsecond
      exact (push8_tracksI h2).trans_sameI
        (sameI_of_third_push h3 (placeOf_ne_of_ownAddress rfl (hthird ▸ by decide)))
    case neg =>
      refine (push8_sameI h2 hsecond).trans_tracksI ?_
      obtain rfl | ⟨x, hx⟩ := h3
      · exact SameI.tracksI ⟨rfl, rfl⟩
      · exact push8_tracksI hx

theorem pop8_sameI {s : State} {p : Byte × State} (h : pop8 s = .next p) : SameI s p.2 := by
  rw [(pop8_eq_next h).2]
  exact ⟨rfl, rfl⟩

theorem popPc_sameI {s : State} {p : PcAddr × State} (h : popPc s = .next p) : SameI s p.2 := by
  obtain ⟨a, ha, h⟩ := andThen_eq_next.1 h
  obtain ⟨b, hb, h⟩ := andThen_eq_next.1 h
  obtain ⟨c, hc, h⟩ := andThen_eq_next.1 h
  cases h
  have htop : SameI s a.2 := by
    unfold popTop at ha
    split at ha
    · cases ha
      exact ⟨rfl, rfl⟩
    · exact pop8_sameI ha
  exact (htop.trans (pop8_sameI hb)).trans (pop8_sameI hc)

/-! ### I and the inhibit through an instruction -/

theorem eq_of_checkPointer {p : Pointer} {r : Reg} {s t : State} (h : checkPointer p r s = .next t) : t = s :=
  ((Updates.refl (A := []) (e := false) s).checkPointer h).2

theorem storeDisplaced_tracksI {p : Pointer} {q : BitVec 6} {r : Reg} {s t : State}
    (h : storeDisplaced p q r s = .next t) : TracksI s t := by
  obtain ⟨s1, h1, h⟩ := andThen_eq_next.1 h
  obtain ⟨s2, h2, h⟩ := andThen_eq_next.1 h
  cases h
  obtain rfl := eq_of_checkPointer h1
  exact memWrite_tracksI (t := s2) h2

theorem storeIncrement_tracksI {p : Pointer} {r : Reg} {s t : State} (h : storeIncrement p r s = .next t) :
    TracksI s t := by
  obtain ⟨s1, h1, h⟩ := andThen_eq_next.1 h
  obtain ⟨s2, h2, h⟩ := andThen_eq_next.1 h
  cases h
  obtain rfl := eq_of_checkPointer h1
  exact memWrite_tracksI (t := s2) h2

theorem storeDecrement_tracksI {p : Pointer} {r : Reg} {s t : State} (h : storeDecrement p r s = .next t) :
    TracksI s t := by
  obtain ⟨s1, h1, h⟩ := andThen_eq_next.1 h
  obtain ⟨s2, h2, h⟩ := andThen_eq_next.1 h
  cases h
  obtain rfl := eq_of_checkPointer h1
  exact memWrite_tracksI (s := s1.setPair p.lo (s1.pointer p - 1#16)) (t := s2) h2

theorem ioBit_tracksI {a : BitVec 5} {b : BitVec 3} {x : Bool} {s t : State} (h : ioBit a b x s = .next t) :
    TracksI s t := by
  obtain ⟨v, h1, h⟩ := andThen_eq_next.1 h
  obtain ⟨u, h2, h⟩ := andThen_eq_next.1 h
  cases h
  obtain ⟨-, hread⟩ := (memRead_eq_next ..).1 h1
  rw [hread] at h2
  exact memWrite_tracksI (s := s.afterRead (ioBitAddress a)) (t := u) h2

theorem callTo_tracksI {words dest : PcAddr} {s t : State} (h : callTo words dest s = .next t) : TracksI s t := by
  obtain ⟨u, hpush, h⟩ := andThen_eq_next.1 h
  cases h
  exact pushPc_tracksI (t := u) hpush

/-- A write of a data byte and then the advance of the pc. -/
theorem store_advance_tracksI {s t : State} {a : Word} {v : Byte} {n : PcAddr}
    (h : (andThen (memWrite s a v) fun u => .next (u.advance n)) = .next t) : TracksI s t := by
  obtain ⟨u, hw, h⟩ := andThen_eq_next.1 h
  cases h
  exact memWrite_tracksI (t := u) hw

/-- An instruction sets the inhibit exactly if it takes I from 0 to 1: it writes SREG at most once where it may raise I, and
raises no I where it has no store and is none of the three that set it (R318). -/
theorem exec_tracksI {i : Instr} {s t : State} (h : exec i s = .next t) : TracksI s t := by
  cases i
  case stX | stY | stZ | stdY | stdZ => exact storeDisplaced_tracksI h
  case stXInc | stYInc | stZInc => exact storeIncrement_tracksI h
  case stXDec | stYDec | stZDec => exact storeDecrement_tracksI h
  case sts | ioOut => exact store_advance_tracksI h
  case sbi | cbi => exact ioBit_tracksI h
  case push =>
    obtain ⟨u, hpush, h⟩ := andThen_eq_next.1 h
    cases h
    exact push8_tracksI (t := u) hpush
  case rcall | icall | eicall | call => exact callTo_tracksI h
  case bset | sei =>
    cases h
    exact writeSreg_tracksI s _
  case reti =>
    obtain ⟨p, hpop, rfl⟩ := returnFromInterrupt_eq_next.1 h
    exact (popPc_sameI hpop).trans_tracksI (writeSreg_tracksI (p.2.setPc p.1) _)
  all_goals exact (raisesNoI_of_updates (exec_updates h) List.not_mem_nil).tracksI

/-- Settles O51: the step is an instruction, run with the inhibit clear, which then is set exactly if I was raised. -/
theorem inhibitForOneInstruction : Obligations.InhibitForOneInstruction := by
  intro s t hpending hawake hstep
  have htracks : t.inhibit = (!s.flagI && t.flagI) := by
    obtain ⟨src, hsrc, -⟩ | ⟨-, hasleep, -⟩ | ⟨-, -, w, i, -, -, hexec⟩ := step_eq_next_cases hstep
    · simp [hsrc] at hpending
    · simp [hasleep] at hawake
    · exact exec_tracksI (s := { s.passBoundary with inhibit := false }) hexec
  refine ⟨fun hs ht => ?raised, fun hsame => ?other, fun hinhibit requests => ?masked⟩
  case raised => rw [htracks, hs, ht]; rfl
  case other =>
    obtain hs | ht := hsame
    · rw [htracks, hs]; rfl
    · rw [htracks, ht, Bool.and_false]
  case masked => exact pendingInterrupt_of_inhibit (s := { t with requests := requests }) hinhibit

end Sys2Proof.Machine

/-! Where interrupts come in and go out (R313 to R316, R319, R321): which source is taken, what an entry leaves with its stack in
RAM, and the way back by RETI; O49, O50 and O52. -/

namespace Sys2Proof.Machine

/-! ### The interrupt taken -/

/-- The source taken is the first of the list that requests, where I and the inhibit allow it (R314, R315, R321). -/
theorem pendingInterrupt_eq_some_iff (s : State) (src : IrqSource) :
    pendingInterrupt s = some src ↔ s.flagI = true ∧ s.inhibit = false ∧
      ∃ before after, s.cfg.irqSources = before ++ src :: after ∧ src.name ∈ s.presented ∧
        ∀ x ∈ before, x.name ∉ s.presented := by
  unfold pendingInterrupt
  by_cases henabled : s.flagI = true ∧ s.inhibit = false
  case pos =>
    obtain ⟨hI, hinhibit⟩ := henabled
    have hI' : s.sreg.getLsbD 7 = true := hI
    simp [hI, hI', hinhibit, List.find?_eq_some_iff_append, and_left_comm]
  case neg =>
    have hdisabled : ¬ (s.sreg.getLsbD 7 && !s.inhibit) = true := by simpa [State.flagI] using henabled
    rw [if_neg hdisabled]
    exact ⟨nofun, fun ⟨hI, hinhibit, _⟩ => absurd ⟨hI, hinhibit⟩ henabled⟩

/-- Settles O49: the source is what `find?` finds, and a pending interrupt is the step. -/
theorem interruptTakenWhenAllowed : Obligations.InterruptTakenWhenAllowed :=
  fun s src => ⟨pendingInterrupt_eq_some_iff s src, step_of_pendingInterrupt⟩

/-! ### Interrupt entry -/

/-- With room in RAM an entry changes SP, RAM, I, the pc, the sleeping marker and the event history alone (R69, R316). The AND
with 0x7F of R316 is bit 7 made 0. -/
theorem takeInterrupt_of_room {s : State} (src : IrqSource) (h : s.pushRoom) :
    ∃ sp ram, takeInterrupt src s = .next
        { s with
          sp := sp, ram := ram, sreg := withBit s.sreg 7#3 false, sleeping := false, pc := wrapPc s.cfg src.vector
          events := s.events ++ [.interruptTaken src.name] } ∧
      pushesReturn s { s with sp := sp, ram := ram } s.pc := by
  obtain ⟨u, hpush, hreturn, hrest⟩ := pushPc_of_room s.pc h
  generalize u.sp = sp, u.ram = ram at hrest
  subst hrest
  exact ⟨sp, ram, takeInterrupt_eq_next.2 ⟨_, hpush, rfl⟩, hreturn⟩

/-- Settles O50: the state an entry leaves, part by part; of SREG it writes bit 7. -/
theorem interruptEntryEffect : Obligations.InterruptEntryEffect := by
  intro s src hroom
  obtain ⟨sp, ram, htake, hreturn⟩ := takeInterrupt_of_room src hroom
  have hbit (n : BitVec 3) : bitOf (withBit s.sreg 7#3 false) n = if n = 7#3 then false else bitOf s.sreg n :=
    bitOf_withBit s.sreg 7#3 n false
  exact ⟨_, htake, hreturn, hbit 7#3, fun n hn => (hbit n).trans (if_neg (by simpa using hn)), wrapPc_toNat .., rfl, rfl,
    fun _ _ => rfl, ⟨rfl, rfl, rfl⟩, rfl, rfl, rfl, fun _ => rfl⟩

/-! ### The way back -/

/-- Settles O52: the bytes the entry pushed are those RETI pops, SP comes back by as much as it went, and I goes from 0 to 1. -/
theorem handlerReturnsToInterruptedCode : Obligations.HandlerReturnsToInterruptedCode := by
  intro s t u src hpc hroom htaken hcfg hsp hI hkept
  obtain ⟨sp, ram, htake, hpush⟩ := takeInterrupt_of_room src hroom
  obtain rfl := Host.Outcome.next.inj (htake.symm.trans htaken)
  have hshows := stackShows_of_pushesReturn hpc hroom hpush hcfg hsp hkept
  have hbit (n : BitVec 3) : bitOf (withBit u.sreg 7#3 true) n = if n = 7#3 then true else bitOf u.sreg n :=
    bitOf_withBit u.sreg 7#3 n true
  refine ⟨_, exec_reti_of_shows hshows, ?pc, ?sp, hbit 7#3, ?inhibit, fun _ _ => rfl,
    fun n hn => (hbit n).trans (if_neg (by simpa using hn))⟩
  case pc =>
    apply BitVec.eq_of_toNat_eq
    rw [State.writeSreg_pc, State.setPc_pc, State.setSp_cfg, wrapPc_popped_toNat, hcfg, pushed_toNat, Nat.mod_eq_of_lt hpc]
  case sp =>
    obtain ⟨hpushed, -⟩ := hpush
    rw [State.writeSreg_sp, State.setPc_sp, State.setSp_sp, hcfg, hsp]
    exact hpushed ▸ BitVec.sub_add_cancel s.sp _
  case inhibit =>
    have hraised := raisesI_withBit u 7#3 true
    rw [hI] at hraised
    rw [State.writeSreg_inhibit, State.setPc_sreg, State.setSp_sreg, hraised]
    exact Bool.or_true _

end Sys2Proof.Machine

/-! The causes of an instruction's stops (R311): each access operation stops at the addresses of its access alone, a sequence stops
only where one of its parts does, and so does every instruction; then O58. -/

namespace Sys2Proof.Machine

/-! ### Stops with a cause -/

/-- `x`, a part of the instruction `i` begun in the state `s`, stops only for a cause of that instruction (R311). -/
structure CausedStops {α : Type} (i : Instr) (s : State) (x : Result α) : Prop where
  fault : ∀ f, x = .fault f → f.cause i s
  refusal : ∀ r, x = .refused r → r.cause i s

namespace CausedStops

variable {α β : Type} {i : Instr} {s : State}

theorem next (a : α) : CausedStops i s (.next a) := ⟨nofun, nofun⟩

/-- A sequence stops where its first part does, or where the second does after the first. -/
theorem andThen {x : Result α} {f : α → Result β} (hx : CausedStops i s x)
    (hf : ∀ a, x = .next a → CausedStops i s (f a)) : CausedStops i s (andThen x f) where
  fault e h := by
    obtain h | ⟨a, ha, h⟩ := andThen_eq_fault.1 h
    · exact hx.fault e h
    · exact (hf a ha).fault e h
  refusal r h := by
    obtain h | ⟨a, ha, h⟩ := andThen_eq_refused.1 h
    · exact hx.refusal r h
    · exact (hf a ha).refusal r h

/-- The same where nothing after the first part stops. -/
theorem andThen_next {x : Result α} (hx : CausedStops i s x) (f : α → β) :
    CausedStops i s (Machine.andThen x fun a => .next (f a)) :=
  hx.andThen fun _ _ => next _

/-! ### The access operations -/

/-- A read in a state with the parameters and the RAM of `s`, at an address the instruction reads. -/
theorem memRead {u : State} {a : Word} (hcfg : u.cfg = s.cfg) (hram : u.ram = s.ram) (ha : a ∈ loadAddresses i s) :
    CausedStops i s (memRead u a) where
  fault f h := by
    obtain ⟨rfl, hplace⟩ | ⟨rfl, hplace, hbyte, hread⟩ := (memRead_eq_fault u a f).1 h
    · exact ⟨.inl ha, (placeOf_eq_outside_toNat s.cfg a).1 (hcfg ▸ hplace)⟩
    · rw [State.ramByte, hram] at hbyte
      exact ⟨ha, hcfg ▸ hread, hcfg ▸ hplace, hbyte⟩
  refusal r h := by
    obtain ⟨rfl, hplace⟩ := (memRead_eq_refused u a r).1 h
    exact ⟨a, .inl ha, (placeOf_eq_noWindow_iff s a).1 (hcfg ▸ hplace)⟩

/-- A write in a state with the parameters of `s`, at an address the instruction stores to. -/
theorem memWrite {u : State} {a : Word} (v : Byte) (hcfg : u.cfg = s.cfg) (ha : a ∈ storeAddresses i s) :
    CausedStops i s (memWrite u a v) where
  fault f h := by
    obtain ⟨rfl, hplace⟩ := (memWrite_eq_fault u a v f).1 h
    exact ⟨.inr ha, (placeOf_eq_outside_toNat s.cfg a).1 (hcfg ▸ hplace)⟩
  refusal r h := by
    obtain ⟨rfl, hplace⟩ := (memWrite_eq_refused u a v r).1 h
    exact ⟨a, .inr ha, (placeOf_eq_noWindow_iff s a).1 (hcfg ▸ hplace)⟩

theorem push8 (v : Byte) (ha : s.sp ∈ storeAddresses i s) : CausedStops i s (push8 s v) :=
  (memWrite v rfl ha).andThen_next _

/-- A pop reads after SP has moved, which no stop depends on (R13). -/
theorem pop8 (ha : s.sp + 1#16 ∈ loadAddresses i s) : CausedStops i s (pop8 s) :=
  memRead (s.setSp_cfg ..) (s.setSp_ram ..) ha

theorem pushPc {ret : PcAddr} (hall : ∀ a ∈ pushAddresses s ret, a ∈ storeAddresses i s) :
    CausedStops i s (pushPc s ret) where
  fault f h := by
    obtain ⟨a, ha, rfl, hplace⟩ := (pushPc_eq_fault s ret f).1 h
    exact ⟨.inr (hall a ha), (placeOf_eq_outside_toNat s.cfg a).1 hplace⟩
  refusal r h := by
    obtain ⟨rfl, a, ha, hplace⟩ := (pushPc_eq_refused s ret r).1 h
    exact ⟨a, .inr (hall a ha), (placeOf_eq_noWindow_iff s a).1 hplace⟩

theorem popPc (hall : ∀ a ∈ popAddresses s, a ∈ loadAddresses i s) : CausedStops i s (popPc s) where
  fault f h := by
    obtain ⟨a, ha, ⟨rfl, hplace⟩ | ⟨rfl, hunreadable⟩⟩ := (popPc_eq_fault s f).1 h
    · exact ⟨.inl (hall a ha), (placeOf_eq_outside_toNat s.cfg a).1 hplace⟩
    · exact ⟨hall a ha, hunreadable⟩
  refusal r h := by
    obtain ⟨a, ha, rfl, hplace⟩ := (popPc_eq_refused s r).1 h
    exact ⟨a, .inl (hall a ha), (placeOf_eq_noWindow_iff s a).1 hplace⟩

theorem progByte {ba : Nat} (ha : ba / 2 ∈ programAddresses i s) : CausedStops i s (progByte s ba) where
  fault f h := by
    obtain ⟨rfl, hout⟩ := (progByte_eq_fault s ba f).1 h
    exact ⟨ha, hout⟩
  refusal r h := absurd h (progByte_ne_refused s ba r)

/-- A skip in a state with the pc and the parameters of `s`. -/
theorem skip {u : State} {taken : Bool} (hpc : u.pc = s.pc) (hcfg : u.cfg = s.cfg)
    (hall : ∀ wa ∈ skipAddresses taken s, wa ∈ programAddresses i s) : CausedStops i s (skip taken u) where
  fault f h := by
    obtain ⟨wa, ha, rfl, hout⟩ := (skip_eq_fault taken u f).1 h
    rw [skipAddresses, State.pcAfter_congr hpc hcfg] at ha
    exact ⟨hall wa ha, hcfg ▸ hout⟩
  refusal r h := absurd h (skip_ne_refused taken u r)

/-- The checks of the instruction's own pointer, and what comes after them in the same state (R170, R195). -/
theorem checked {p : Pointer} {r : Reg} {f : State → Result α} (hi : indirectOperand i = some (p, r))
    (hf : CausedStops i s (f s)) : CausedStops i s (Machine.andThen (checkPointer p r s) f) := by
  obtain ⟨habsent, hxy, hp⟩ | ⟨hfault, hholds⟩ | ⟨hok, -⟩ := checkPointer_cases p r s
  · rw [habsent, andThen_refused]
    refine ⟨nofun, fun e he => ?_⟩
    cases he
    exact ⟨(needsXY_of_operand hi).2 hp, hxy⟩
  · rw [hfault, andThen_fault]
    refine ⟨fun e he => ?_, nofun⟩
    cases he
    exact (pointerHazard_of_operand hi).trans hholds
  · rwa [hok, Machine.andThen_next]

/-! ### The operand forms -/

theorem loadByte {u : State} {a : Word} (d : Reg) (hcfg : u.cfg = s.cfg) (hram : u.ram = s.ram)
    (ha : a ∈ loadAddresses i s) : CausedStops i s (loadByte d a u) :=
  (memRead hcfg hram ha).andThen_next _

theorem loadDisplaced {p : Pointer} {d : Reg} {q : BitVec 6} (hi : indirectOperand i = some (p, d))
    (ha : s.pointer p + q.setWidth 16 ∈ loadAddresses i s) : CausedStops i s (loadDisplaced p d q s) :=
  checked hi ((loadByte d rfl rfl ha).andThen_next _)

theorem loadIncrement {p : Pointer} {d : Reg} (hi : indirectOperand i = some (p, d))
    (ha : s.pointer p ∈ loadAddresses i s) : CausedStops i s (loadIncrement p d s) :=
  checked hi ((loadByte d rfl rfl ha).andThen_next _)

theorem loadDecrement {p : Pointer} {d : Reg} (hi : indirectOperand i = some (p, d))
    (ha : s.pointer p - 1#16 ∈ loadAddresses i s) : CausedStops i s (loadDecrement p d s) :=
  checked hi ((loadByte d (s.setPair_cfg ..) (s.setPair_ram ..) ha).andThen_next _)

theorem storeDisplaced {p : Pointer} {r : Reg} {q : BitVec 6} (hi : indirectOperand i = some (p, r))
    (ha : s.pointer p + q.setWidth 16 ∈ storeAddresses i s) : CausedStops i s (storeDisplaced p q r s) :=
  checked hi ((memWrite _ rfl ha).andThen_next _)

theorem storeIncrement {p : Pointer} {r : Reg} (hi : indirectOperand i = some (p, r))
    (ha : s.pointer p ∈ storeAddresses i s) : CausedStops i s (storeIncrement p r s) :=
  checked hi ((memWrite _ rfl ha).andThen_next _)

theorem storeDecrement {p : Pointer} {r : Reg} (hi : indirectOperand i = some (p, r))
    (ha : s.pointer p - 1#16 ∈ storeAddresses i s) : CausedStops i s (storeDecrement p r s) :=
  checked hi ((memWrite _ (s.setPair_cfg ..) ha).andThen_next _)

/-- The plain form of a load is the one with displacement 0 (R175). -/
theorem loadPlain {p : Pointer} {d : Reg} (hi : indirectOperand i = some (p, d))
    (ha : s.pointer p ∈ loadAddresses i s) : CausedStops i s (Machine.loadDisplaced p d 0#6 s) :=
  loadDisplaced hi (by simpa using ha)

/-- The plain form of a store is the one with displacement 0 (R180). -/
theorem storePlain {p : Pointer} {r : Reg} (hi : indirectOperand i = some (p, r))
    (ha : s.pointer p ∈ storeAddresses i s) : CausedStops i s (Machine.storeDisplaced p 0#6 r s) :=
  storeDisplaced hi (by simpa using ha)

theorem loadProgram {ba : Nat} (d : Reg) (ha : ba / 2 ∈ programAddresses i s) : CausedStops i s (loadProgram d ba s) :=
  (progByte ha).andThen_next _

theorem loadProgramIncrement {ba : Nat} (d : Reg) (ha : ba / 2 ∈ programAddresses i s) :
    CausedStops i s (loadProgramIncrement d ba s) :=
  (progByte ha).andThen_next _

/-- The check of LPM and ELPM with a destination, and what comes after it in the same state (R170). -/
theorem checkedZ {d : Reg} {f : State → Result α} (hi : indirectOperand i = some (.z, d))
    (hf : CausedStops i s (f s)) : CausedStops i s (Machine.andThen (checkZ d s) f) :=
  checkZ_eq_checkPointer d s ▸ checked hi hf

/-- SBI and CBI write in the state that their read left. -/
theorem ioBit {a : BitVec 5} (b : BitVec 3) (x : Bool) (hload : ioBitAddress a ∈ loadAddresses i s)
    (hstore : ioBitAddress a ∈ storeAddresses i s) : CausedStops i s (ioBit a b x s) := by
  refine (memRead rfl rfl hload).andThen fun v hv => ?_
  obtain ⟨-, hread⟩ := (memRead_eq_next ..).1 hv
  exact (memWrite _ (hread ▸ s.afterRead_cfg _) hstore).andThen_next _

/-- SBIC and SBIS skip by the byte their read showed, in the state that it left. -/
theorem ioSkip {a : BitVec 5} {test : Byte → Bool} (hload : ioBitAddress a ∈ loadAddresses i s)
    (hall : ∀ wa ∈ skipAddresses ((s.seen (ioBitAddress a)).any test) s, wa ∈ programAddresses i s) :
    CausedStops i s (Machine.andThen (Machine.memRead s (ioBitAddress a)) fun v => Machine.skip (test v.1) v.2) := by
  refine (memRead rfl rfl hload).andThen fun v hv => ?_
  obtain ⟨hseen, hread⟩ := (memRead_eq_next ..).1 hv
  rw [hseen, Option.any_some] at hall
  exact skip (hread ▸ s.afterRead_pc _) (hread ▸ s.afterRead_cfg _) hall

theorem callTo {words dest : PcAddr} (hall : ∀ a ∈ pushAddresses s (s.returnAddress words), a ∈ storeAddresses i s) :
    CausedStops i s (callTo words dest s) :=
  (pushPc hall).andThen_next _

end CausedStops

/-! ### The instructions -/

/-- ELPM Rd,Z+ stops for Z = 0xFFFF before all else (R189). -/
theorem causedStops_elpmZInc (d : Reg) (s : State) : CausedStops (.elpmZInc d) s (exec (.elpmZInc d) s) := by
  by_cases hz : s.z = 0xFFFF#16
  case pos =>
    rw [elpmCarryIsRefused s d hz]
    refine ⟨nofun, fun r hr => ?_⟩
    cases hr
    exact ⟨d, rfl, hz⟩
  case neg =>
    rw [exec_elpmZInc_of_ne hz]
    exact .checkedZ rfl (.loadProgramIncrement d (List.mem_singleton.2 rfl))

theorem causedStops_brk (s : State) : CausedStops .brk s (exec .brk s) := by
  cases hset : s.cfg.breakBehaviour with
  | refuse =>
    rw [exec_brk_of_refuse hset]
    refine ⟨nofun, fun r hr => ?_⟩
    cases hr
    exact ⟨rfl, hset⟩
  | nop => exact exec_brk_of_nop hset ▸ .next _

theorem causedStops_sleep (s : State) : CausedStops .sleep s (exec .sleep s) := by
  cases hset : s.cfg.sleepBehaviour with
  | refuse =>
    rw [exec_sleep_of_refuse hset]
    refine ⟨nofun, fun r hr => ?_⟩
    cases hr
    exact ⟨rfl, hset⟩
  | nop => exact exec_sleep_of_nop hset ▸ .next _
  | wait => exact exec_sleep_of_wait hset ▸ .next _

theorem causedStops_spm (s : State) : CausedStops .spm s (exec .spm s) := by
  refine ⟨nofun, fun r hr => ?_⟩
  cases hr
  rfl

/-- Every instruction stops only for a cause of its own: at an access it makes, at the checks before it, or by the setting or the
rule that refuses it (R311). -/
theorem exec_causedStops (i : Instr) (s : State) : CausedStops i s (exec i s) := by
  cases i
  case ldX | ldY | ldZ => exact .loadPlain rfl (List.mem_singleton.2 rfl)
  case lddY | lddZ => exact .loadDisplaced rfl (List.mem_singleton.2 rfl)
  case ldXInc | ldYInc | ldZInc => exact .loadIncrement rfl (List.mem_singleton.2 rfl)
  case ldXDec | ldYDec | ldZDec => exact .loadDecrement rfl (List.mem_singleton.2 rfl)
  case stX | stY | stZ => exact .storePlain rfl (List.mem_singleton.2 rfl)
  case stdY | stdZ => exact .storeDisplaced rfl (List.mem_singleton.2 rfl)
  case stXInc | stYInc | stZInc => exact .storeIncrement rfl (List.mem_singleton.2 rfl)
  case stXDec | stYDec | stZDec => exact .storeDecrement rfl (List.mem_singleton.2 rfl)
  case lds | ioIn => exact (CausedStops.loadByte _ rfl rfl (List.mem_singleton.2 rfl)).andThen_next _
  case sts | ioOut => exact (CausedStops.memWrite _ rfl (List.mem_singleton.2 rfl)).andThen_next _
  case lpm | elpm => exact .loadProgram _ (List.mem_singleton.2 rfl)
  case lpmZ | elpmZ => exact .checkedZ rfl (.loadProgram _ (List.mem_singleton.2 rfl))
  case lpmZInc => exact .checkedZ rfl (.loadProgramIncrement _ (List.mem_singleton.2 rfl))
  case elpmZInc d => exact causedStops_elpmZInc d s
  case push => exact (CausedStops.push8 _ (List.mem_singleton.2 rfl)).andThen_next _
  case pop => exact (CausedStops.pop8 (List.mem_singleton.2 rfl)).andThen_next _
  case rcall | icall | eicall | call => exact .callTo fun _ ha => ha
  case ret => exact (CausedStops.popPc (i := .ret) fun _ ha => ha).andThen_next _
  case reti => exact (CausedStops.popPc (i := .reti) fun _ ha => ha).andThen_next _
  case cpse | sbrc | sbrs => exact .skip rfl rfl fun _ ha => ha
  case sbic a b => exact .ioSkip (test := fun v => !bitOf v b) (List.mem_singleton.2 rfl) fun _ ha => ha
  case sbis a b => exact .ioSkip (test := fun v => bitOf v b) (List.mem_singleton.2 rfl) fun _ ha => ha
  case sbi | cbi => exact .ioBit _ _ (List.mem_singleton.2 rfl) (List.mem_singleton.2 rfl)
  case brk => exact causedStops_brk s
  case sleep => exact causedStops_sleep s
  case spm => exact causedStops_spm s
  all_goals exact .next _

/-- Settles O58: the causes of the stops of every instruction. -/
theorem everyStopHasItsCause : Obligations.EveryStopHasItsCause := fun i s =>
  ⟨(exec_causedStops i s).fault, (exec_causedStops i s).refusal⟩

end Sys2Proof.Machine

/-! The step of an awake core that takes no interrupt (R12, R91, R315, R318): what it fetches, and that a one-word instruction
decodes the same whatever word follows; O5. -/

namespace Sys2Proof

/-! ### The second word -/

/-- The bits of a field of a word, from the field's number. -/
theorem getLsbD_of_field {w : Word} {start len n : Nat} (h : (w.extractLsb' start len).toNat = n) (i : Nat) (hi : i < len) :
    w.getLsbD (start + i) = n.testBit i := by
  rw [← h, BitVec.testBit_toNat, BitVec.getLsbD_extractLsb', decide_eq_true hi, Bool.true_and]

/-- The words of LDS and STS announce a second one (R91, R99). -/
theorem isTwoWord_of_direct {w : Word} (hgroup : (w.extractLsb' 12 4).toNat = 9)
    (hhalf : (w.extractLsb' 10 2).toNat = 0) (hmode : (w.extractLsb' 0 4).toNat = 0) : isTwoWord w = true := by
  have g := getLsbD_of_field hgroup
  have h := getLsbD_of_field hhalf
  have m := getLsbD_of_field hmode
  rw [isTwoWord_bits, g 3 (by decide), g 2 (by decide), g 1 (by decide), g 0 (by decide), h 1 (by decide),
    h 0 (by decide), m 3 (by decide), m 2 (by decide), m 1 (by decide), m 0 (by decide)]
  rfl

/-- The words of JMP and CALL announce a second one (R91, R104). -/
theorem isTwoWord_of_absolute {w : Word} (hgroup : (w.extractLsb' 12 4).toNat = 9)
    (hrow : (w.extractLsb' 9 3).toNat = 2) (hmode : (w.extractLsb' 2 2).toNat = 3) : isTwoWord w = true := by
  have g := getLsbD_of_field hgroup
  have r := getLsbD_of_field hrow
  have m := getLsbD_of_field hmode
  rw [isTwoWord_bits, g 3 (by decide), g 2 (by decide), g 1 (by decide), g 0 (by decide), r 2 (by decide),
    r 1 (by decide), r 0 (by decide), m 1 (by decide), m 0 (by decide)]
  rfl

/-- In the load half only LDS takes the second word (R99). -/
theorem decodeLoad_congr {w : Word} (h : (w.extractLsb' 0 4).toNat ≠ 0) (w2 w3 : Word) :
    decodeLoad w w2 = decodeLoad w w3 := by
  unfold decodeLoad
  split
  next h0 => exact absurd h0 h
  all_goals rfl

/-- In the store half only STS takes it (R99). -/
theorem decodeStore_congr {w : Word} (h : (w.extractLsb' 0 4).toNat ≠ 0) (w2 w3 : Word) :
    decodeStore w w2 = decodeStore w w3 := by
  unfold decodeStore
  split
  next h0 => exact absurd h0 h
  all_goals rfl

/-- Of the words `1001 010x` only JMP and CALL take it (R104). -/
theorem decodeGroup94_congr {w : Word} (h : (w.extractLsb' 2 2).toNat ≠ 3) (w2 w3 : Word) :
    decodeGroup94 w w2 = decodeGroup94 w w3 := by
  have hmode : (w.extractLsb' 0 4).toNat < 12 := by
    simp only [BitVec.extractLsb'_toNat, Nat.shiftRight_eq_div_pow] at h ⊢
    omega
  unfold decodeGroup94
  split
  case h_11 | h_12 | h_13 | h_14 => omega
  all_goals rfl

/-- A word that announces no second one decodes the same whatever follows it (R91). -/
theorem decodeWords_of_oneWord {w : Word} (h : isTwoWord w = false) (w2 w3 : Word) :
    decodeWords w w2 = decodeWords w w3 := by
  unfold decodeWords
  split
  case h_10 hgroup =>
    have hdirect (hhalf : (w.extractLsb' 10 2).toNat = 0) : (w.extractLsb' 0 4).toNat ≠ 0 := fun hmode => by
      simp [isTwoWord_of_direct hgroup hhalf hmode] at h
    have hhalf (hlow : (w.extractLsb' 9 3).toNat < 2) : (w.extractLsb' 10 2).toNat = 0 := by
      simp only [BitVec.extractLsb'_toNat, Nat.shiftRight_eq_div_pow] at hlow ⊢
      omega
    unfold decodeGroup9
    split
    case h_1 hrow => exact decodeLoad_congr (hdirect (hhalf (by omega))) w2 w3
    case h_2 hrow => exact decodeStore_congr (hdirect (hhalf (by omega))) w2 w3
    case h_3 hrow =>
      refine decodeGroup94_congr (fun hmode => ?_) w2 w3
      simp [isTwoWord_of_absolute hgroup hrow hmode] at h
    all_goals rfl
  all_goals rfl

end Sys2Proof

namespace Sys2Proof.Machine

/-! ### The step -/

/-- A fetch that stays inside `FLASH_WORDS` answers the word at pc, and with a two-word instruction the one after it (R12,
R91). -/
theorem fetch_of_inside {s : State} (h1 : s.pc.toNat < s.cfg.programWords)
    (h2 : isTwoWord (s.programWord s.pc.toNat) = true → (s.pcAfter 1).toNat < s.cfg.programWords) :
    fetch s = .next (s.programWord s.pc.toNat,
      if isTwoWord (s.programWord s.pc.toNat) then s.programWord (s.pcAfter 1).toNat else 0#16) := by
  cases hlong : isTwoWord (s.programWord s.pc.toNat) with
  | false => exact fetch_one (progWord_of_lt h1) hlong
  | true =>
    refine fetch_two (progWord_of_lt h1) hlong ?_
    rw [wrapPc_add s 1#22]
    exact progWord_of_lt (h2 hlong)

/-- What is fetched and decodes is executed, with the inhibit cleared (R315, R318; log 24). -/
theorem runInstruction_of_decode {s : State} {w : Word × Word} {i : Instr} (hfetch : fetch s = .next w)
    (hdecode : decodeWords w.1 w.2 = some i) : runInstruction s = exec i { s with inhibit := false } := by
  rw [runInstruction, hfetch, andThen_next, hdecode]

theorem step_awake {s : State} (hpending : pendingInterrupt s = none) (hawake : s.sleeping = false) :
    step s = runInstruction s.passBoundary := by
  simp [step, cycle, hpending, hawake]

/-- Settles O5: the words fetched, of which the decoder takes the second only where it was fetched. -/
theorem stepRunsDecodedInstruction : Obligations.StepRunsDecodedInstruction := by
  intro s i hpending hawake hfirst hsecond hdecode
  have hfetch := fetch_of_inside (s := s.passBoundary) hfirst hsecond
  have hdecoded : decodeWords (s.programWord s.pc.toNat)
      (if isTwoWord (s.programWord s.pc.toNat) then s.programWord (s.pcAfter 1).toNat else 0#16) = some i := by
    split
    next => exact hdecode
    next hshort => rwa [decodeWords_of_oneWord (eq_false_of_ne_true hshort) _ (s.programWord (s.pcAfter 1).toNat)]
  exact (step_awake hpending hawake).trans (runInstruction_of_decode hfetch hdecoded)

end Sys2Proof.Machine

/-! The state right after reset (R340), then O10. -/

namespace Sys2Proof.Machine

@[simp] theorem Memory.read_nil (blank : Option Byte) (a : Nat) : Memory.read blank [] a = blank := rfl

/-- No RAM byte is written yet (R47). -/
@[simp] theorem State.resetWith_ramByte (c : Config) (program : Memory) (a : Word) :
    (State.resetWith c program).ramByte a = none := Memory.read_nil ramBlank a.toNat

/-- No source requests at the first boundary (R46 (a)). -/
@[simp] theorem State.resetWith_presented (c : Config) (program : Memory) :
    (State.resetWith c program).presented = [] := rfl

/-- Settles O10: the RAM bytes and the requests by their lemmas, every other value as a field that reset writes. -/
theorem resetLeavesTheStatedValues : Obligations.ResetLeavesTheStatedValues := by
  intro c program
  have hram := State.resetWith_ramByte c program
  have hrequests := State.resetWith_presented c program
  exact ⟨rfl, rfl, rfl, rfl, rfl, hram, rfl, rfl, hrequests, rfl, rfl, rfl⟩

end Sys2Proof.Machine

/-! Where the step of an awake core stops before any instruction runs (R113, R321), then O6. -/

namespace Sys2Proof.Machine

/-! ### Stops at the fetch -/

/-- The first word lies outside program memory (R61, R75). -/
theorem fetch_of_first_outside {s : State} (h : s.cfg.programWords ≤ s.pc.toNat) :
    fetch s = .fault (.programOutside s.pc.toNat) := by
  rw [fetch, progWord_of_ge h, andThen_fault]

/-- The first word announces a second, and that one lies outside (R91). -/
theorem fetch_of_second_outside {s : State} (h1 : s.pc.toNat < s.cfg.programWords)
    (hlong : isTwoWord (s.programWord s.pc.toNat) = true) (h2 : s.cfg.programWords ≤ (s.pcAfter 1).toNat) :
    fetch s = .fault (.programOutside (s.pcAfter 1).toNat) := by
  have hfirst : progWord s s.pc.toNat = .next (s.programWord s.pc.toNat) := progWord_of_lt h1
  have hsecond := progWord_of_ge h2
  rw [fetch, hfirst, andThen_next, if_pos hlong, wrapPc_add s 1#22, BitVec.toNat_ofNat, hsecond, andThen_fault]

/-- A stop of the fetch is the instruction's (R321). -/
theorem runInstruction_of_fetch_fault {s : State} {f : Fault} (h : fetch s = .fault f) : runInstruction s = .fault f := by
  rw [runInstruction, h, andThen_fault]

/-- What is fetched and decodes to nothing is refused under its name (R113). -/
theorem runInstruction_of_reserved {s : State} {w : Word × Word} (hfetch : fetch s = .next w)
    (hdecode : decodeWords w.1 w.2 = none) : runInstruction s = .refused (.reservedEncoding w.1 s.pc) := by
  rw [runInstruction, hfetch, andThen_next, hdecode]

/-- Settles O6: the step is that of the instruction at the passed boundary, which stops at its fetch or at the decoder. -/
theorem stepStopsAtTheFetch : Obligations.StepStopsAtTheFetch := by
  intro s hpending hawake
  rw [step_awake hpending hawake]
  refine ⟨fun hfirst => ?_, fun hfirst hlong hsecond => ?_, fun hfirst hshort hreserved => ?_⟩
  · exact runInstruction_of_fetch_fault (fetch_of_first_outside (s := s.passBoundary) hfirst)
  · exact runInstruction_of_fetch_fault (fetch_of_second_outside (s := s.passBoundary) hfirst hlong hsecond)
  · have hfetch : fetch s.passBoundary = .next (s.programWord s.pc.toNat, 0#16) := fetch_one (progWord_of_lt hfirst) hshort
    exact runInstruction_of_reserved hfetch hreserved

end Sys2Proof.Machine

/-! Each row that is another name runs as the instruction it stands for (R118), then O11. -/

namespace Sys2Proof.Machine

/-- CBR's constant, which its rule says by a subtraction, is the complement its encoding holds (R150). -/
theorem complement_eq_not (k : Byte) : 0xFF#8 - k = ~~~k := BitVec.allOnes_sub_eq_not k

/-- Settles O11: every meaning but CBR's is that of the expansion as it stands. -/
theorem aliasRunsAsItsExpansion : Obligations.AliasRunsAsItsExpansion := by
  intro i s
  cases i
  case cbr d k => exact congrArg (execAndi d · s) (complement_eq_not k)
  all_goals rfl

end Sys2Proof.Machine

/-! The formats of rules R93 to R107 by numbers: a word of each format as a number, and what the decoder reads in it. -/

namespace Sys2Proof

/-! ### Fields as numbers -/

/-- The high part of a word stands above its low part. -/
theorem append_toNat {m n : Nat} (x : BitVec m) (y : BitVec n) : (x ++ y).toNat = x.toNat * 2 ^ n + y.toNat := by
  rw [BitVec.toNat_append, ← Nat.shiftLeft_add_eq_or_of_lt y.isLt, Nat.shiftLeft_eq]

/-- The `len` bits of a word from `start` on. -/
theorem field_toNat {m : Nat} (v : BitVec m) (start len : Nat) :
    (v.extractLsb' start len).toNat = v.toNat / 2 ^ start % 2 ^ len := by
  rw [BitVec.extractLsb'_toNat, Nat.shiftRight_eq_div_pow]

theorem bit_eq_decide {m : Nat} (v : BitVec m) (i : Nat) : v.getLsbD i = decide (v.toNat / 2 ^ i % 2 = 1) :=
  Nat.testBit_eq_decide_div_mod_eq

/-! ### The register sets of R120 -/

theorem Reg.isUpper_iff (d : Reg) : d.isUpper = true ↔ 16 ≤ d.toNat := decide_eq_true_iff

theorem Reg.isMiddle_iff (d : Reg) : d.isMiddle = true ↔ 16 ≤ d.toNat ∧ d.toNat < 24 := by
  rw [Reg.isMiddle, Bool.and_eq_true, decide_eq_true_iff, decide_eq_true_iff]

theorem Reg.isWordPair_iff (d : Reg) : d.isWordPair = true ↔ 24 ≤ d.toNat ∧ d.toNat % 2 = 0 := by
  rw [Reg.isWordPair, Bool.and_eq_true, decide_eq_true_iff, beq_iff_eq]

theorem Reg.isEven_iff (d : Reg) : d.isEven = true ↔ d.toNat % 2 = 0 := beq_iff_eq

/-! ### The word of each format as a number -/

theorem wordRR5_toNat (op : BitVec 6) (d r : Reg) :
    (wordRR5 op d r).toNat = op.toNat * 1024 + r.toNat / 16 * 512 + d.toNat * 16 + r.toNat % 16 := by
  simp only [wordRR5, append_toNat, field_toNat, Nat.reducePow, Nat.div_one]
  omega

theorem wordIMM8_toNat (op : BitVec 4) (d : Reg) (k : Byte) :
    (wordIMM8 op d k).toNat = op.toNat * 4096 + k.toNat / 16 * 256 + d.toNat % 16 * 16 + k.toNat % 16 := by
  simp only [wordIMM8, append_toNat, field_toNat, Nat.reducePow, Nat.div_one]
  omega

theorem wordIW_toNat (op : BitVec 1) (d : Reg) (k : BitVec 6) :
    (wordIW op d k).toNat = 0x9600 + op.toNat * 256 + k.toNat / 16 * 64 + d.toNat / 2 % 4 * 16 + k.toNat % 16 := by
  simp only [wordIW, append_toNat, field_toNat, BitVec.reduceToNat, Nat.reducePow, Nat.div_one]
  omega

theorem wordR1_toNat (d : Reg) (op : BitVec 4) :
    (wordR1 d op).toNat = 0x9400 + d.toNat * 16 + op.toNat := by
  simp only [wordR1, append_toNat, BitVec.reduceToNat, Nat.reducePow]
  omega

theorem wordRR4_toNat (op : BitVec 2) (d r : BitVec 4) :
    (wordRR4 op d r).toNat = op.toNat * 256 + d.toNat * 16 + r.toNat := by
  simp only [wordRR4, append_toNat, BitVec.reduceToNat, Nat.reducePow]
  omega

theorem wordRR3_toNat (op1 : BitVec 1) (d : Reg) (op2 : BitVec 1) (r : Reg) :
    (wordRR3 op1 d op2 r).toNat = 0x0300 + op1.toNat * 128 + d.toNat % 8 * 16 + op2.toNat * 8 + r.toNat % 8 := by
  simp only [wordRR3, append_toNat, field_toNat, BitVec.reduceToNat, Nat.reducePow, Nat.div_one]
  omega

theorem wordLDST_toNat (s : BitVec 1) (d : Reg) (mode : BitVec 4) :
    (wordLDST s d mode).toNat = 0x9000 + s.toNat * 512 + d.toNat * 16 + mode.toNat := by
  simp only [wordLDST, append_toNat, BitVec.reduceToNat, Nat.reducePow]
  omega

theorem wordDISP_toNat (s z : BitVec 1) (d : Reg) (q : BitVec 6) :
    (wordDISP s z d q).toNat = 0x8000 + q.toNat / 32 * 8192 + q.toNat / 8 % 4 * 1024 + s.toNat * 512 + d.toNat * 16 +
      z.toNat * 8 + q.toNat % 8 := by
  simp only [wordDISP, append_toNat, field_toNat, BitVec.reduceToNat, Nat.reducePow, Nat.div_one]
  omega

theorem wordIO_toNat (s : BitVec 1) (d : Reg) (a : BitVec 6) :
    (wordIO s d a).toNat = 0xB000 + s.toNat * 2048 + a.toNat / 16 * 512 + d.toNat * 16 + a.toNat % 16 := by
  simp only [wordIO, append_toNat, field_toNat, BitVec.reduceToNat, Nat.reducePow, Nat.div_one]
  omega

theorem wordIOBIT_toNat (op : BitVec 2) (a : BitVec 5) (b : BitVec 3) :
    (wordIOBIT op a b).toNat = 0x9800 + op.toNat * 256 + a.toNat * 8 + b.toNat := by
  simp only [wordIOBIT, append_toNat, BitVec.reduceToNat, Nat.reducePow]
  omega

theorem wordREL12_toNat (op : BitVec 1) (k : BitVec 12) :
    (wordREL12 op k).toNat = 0xC000 + op.toNat * 4096 + k.toNat := by
  simp only [wordREL12, append_toNat, BitVec.reduceToNat, Nat.reducePow]
  omega

theorem wordABS22_toNat (op : BitVec 1) (k : PcAddr) :
    (wordABS22 op k).toNat = 0x940C + k.toNat / 131072 * 16 + op.toNat * 2 + k.toNat / 65536 % 2 := by
  simp only [wordABS22, append_toNat, field_toNat, BitVec.reduceToNat, Nat.reducePow]
  omega

theorem wordBR_toNat (op : BitVec 1) (n : BitVec 3) (k : BitVec 7) :
    (wordBR op n k).toNat = 0xF000 + op.toNat * 1024 + k.toNat * 8 + n.toNat := by
  simp only [wordBR, append_toNat, BitVec.reduceToNat, Nat.reducePow]
  omega

theorem wordRBIT_toNat (op : BitVec 2) (d : Reg) (b : BitVec 3) :
    (wordRBIT op d b).toNat = 0xF800 + op.toNat * 512 + d.toNat * 16 + b.toNat := by
  simp only [wordRBIT, append_toNat, BitVec.reduceToNat, Nat.reducePow]
  omega

theorem wordSREGOP_toNat (op : BitVec 1) (n : BitVec 3) :
    (wordSREGOP op n).toNat = 0x9408 + op.toNat * 128 + n.toNat * 16 := by
  simp only [wordSREGOP, append_toNat, BitVec.reduceToNat, Nat.reducePow]
  omega

/-! ### What the decoder reads in a word of each format

Each lemma gives the opcode bits the decoder looks at and the operands back. Where an operand lies in two parts, the bits
above it are taken first, as `htop`.
-/

theorem wordRR5_read (op : BitVec 6) (d r : Reg) :
    ((wordRR5 op d r).extractLsb' 12 4).toNat = op.toNat / 4 ∧
    ((wordRR5 op d r).extractLsb' 10 2).toNat = op.toNat % 4 ∧
    ((wordRR5 op d r).extractLsb' 9 3).toNat = op.toNat % 4 * 2 + r.toNat / 16 ∧
    fieldD (wordRR5 op d r) = d ∧ fieldR (wordRR5 op d r) = r := by
  have htop : (wordRR5 op d r).toNat / 4096 = op.toNat / 4 ∧ (wordRR5 op d r).toNat / 1024 = op.toNat ∧
      (wordRR5 op d r).toNat / 512 = op.toNat * 2 + r.toNat / 16 := by rw [wordRR5_toNat]; omega
  simp only [← BitVec.toNat_inj, fieldD, fieldR, wordRR5_toNat, append_toNat, field_toNat, Nat.reducePow, Nat.div_one]
  rw [wordRR5_toNat] at htop
  omega

theorem wordIMM8_read (op : BitVec 4) {d : Reg} (k : Byte) (hd : d.isUpper = true) :
    ((wordIMM8 op d k).extractLsb' 12 4).toNat = op.toNat ∧
    fieldUpperD (wordIMM8 op d k) = d ∧ fieldK8 (wordIMM8 op d k) = k := by
  rw [Reg.isUpper_iff] at hd
  have htop : (wordIMM8 op d k).toNat / 4096 = op.toNat := by rw [wordIMM8_toNat]; omega
  simp only [← BitVec.toNat_inj, fieldUpperD, fieldK8, wordIMM8_toNat, append_toNat, field_toNat, BitVec.reduceToNat,
    Nat.reducePow, Nat.div_one]
  rw [wordIMM8_toNat] at htop
  omega

theorem wordIW_read (op : BitVec 1) {d : Reg} (k : BitVec 6) (hd : d.isWordPair = true) :
    ((wordIW op d k).extractLsb' 12 4).toNat = 9 ∧ ((wordIW op d k).extractLsb' 9 3).toNat = 3 ∧
    fieldPair (wordIW op d k) = d ∧ fieldK6 (wordIW op d k) = k := by
  rw [Reg.isWordPair_iff] at hd
  have htop : (wordIW op d k).toNat / 512 = 75 := by rw [wordIW_toNat]; omega
  simp only [← BitVec.toNat_inj, fieldPair, fieldK6, wordIW_toNat, append_toNat, field_toNat, BitVec.reduceToNat,
    Nat.reducePow, Nat.div_one]
  rw [wordIW_toNat] at htop
  omega

theorem wordR1_read (d : Reg) (op : BitVec 4) :
    ((wordR1 d op).extractLsb' 12 4).toNat = 9 ∧ ((wordR1 d op).extractLsb' 9 3).toNat = 2 ∧
    ((wordR1 d op).extractLsb' 0 4).toNat = op.toNat ∧ fieldD (wordR1 d op) = d := by
  simp only [← BitVec.toNat_inj, fieldD, wordR1_toNat, field_toNat, Nat.reducePow, Nat.div_one]
  omega

theorem wordRR4_read (op : BitVec 2) (d r : BitVec 4) :
    ((wordRR4 op d r).extractLsb' 12 4).toNat = 0 ∧ ((wordRR4 op d r).extractLsb' 10 2).toNat = 0 ∧
    ((wordRR4 op d r).extractLsb' 8 2).toNat = op.toNat := by
  simp only [wordRR4_toNat, field_toNat, Nat.reducePow]
  omega

theorem wordRR4_upper (op : BitVec 2) {d r : Reg} (hd : d.isUpper = true) (hr : r.isUpper = true) :
    fieldUpperD (wordRR4 op (d.extractLsb' 0 4) (r.extractLsb' 0 4)) = d ∧
    fieldUpperR (wordRR4 op (d.extractLsb' 0 4) (r.extractLsb' 0 4)) = r := by
  rw [Reg.isUpper_iff] at hd hr
  simp only [← BitVec.toNat_inj, fieldUpperD, fieldUpperR, wordRR4_toNat, append_toNat, field_toNat,
    BitVec.reduceToNat, Nat.reducePow, Nat.div_one]
  omega

theorem wordRR4_even (op : BitVec 2) {d r : Reg} (hd : d.isEven = true) (hr : r.isEven = true) :
    fieldEvenD (wordRR4 op (d.extractLsb' 1 4) (r.extractLsb' 1 4)) = d ∧
    fieldEvenR (wordRR4 op (d.extractLsb' 1 4) (r.extractLsb' 1 4)) = r := by
  rw [Reg.isEven_iff] at hd hr
  simp only [← BitVec.toNat_inj, fieldEvenD, fieldEvenR, wordRR4_toNat, append_toNat, field_toNat,
    BitVec.reduceToNat, Nat.reducePow, Nat.div_one]
  omega

theorem wordRR3_read (op1 op2 : BitVec 1) {d r : Reg} (hd : d.isMiddle = true) (hr : r.isMiddle = true) :
    ((wordRR3 op1 d op2 r).extractLsb' 12 4).toNat = 0 ∧ ((wordRR3 op1 d op2 r).extractLsb' 10 2).toNat = 0 ∧
    ((wordRR3 op1 d op2 r).extractLsb' 8 2).toNat = 3 ∧
    fieldMiddleD (wordRR3 op1 d op2 r) = d ∧ fieldMiddleR (wordRR3 op1 d op2 r) = r := by
  rw [Reg.isMiddle_iff] at hd hr
  simp only [← BitVec.toNat_inj, fieldMiddleD, fieldMiddleR, wordRR3_toNat, append_toNat, field_toNat,
    BitVec.reduceToNat, Nat.reducePow, Nat.div_one]
  omega

theorem wordLDST_read (s : BitVec 1) (d : Reg) (mode : BitVec 4) :
    ((wordLDST s d mode).extractLsb' 12 4).toNat = 9 ∧ ((wordLDST s d mode).extractLsb' 9 3).toNat = s.toNat ∧
    ((wordLDST s d mode).extractLsb' 0 4).toNat = mode.toNat ∧ fieldD (wordLDST s d mode) = d := by
  simp only [← BitVec.toNat_inj, fieldD, wordLDST_toNat, field_toNat, Nat.reducePow, Nat.div_one]
  omega

/-- The bits of the displacement of format DISP (R100). -/
theorem fieldQ_bits (w : Word) :
    (fieldQ w).getLsbD 0 = w.getLsbD 0 ∧ (fieldQ w).getLsbD 1 = w.getLsbD 1 ∧ (fieldQ w).getLsbD 2 = w.getLsbD 2 ∧
    (fieldQ w).getLsbD 3 = w.getLsbD 10 ∧ (fieldQ w).getLsbD 4 = w.getLsbD 11 ∧ (fieldQ w).getLsbD 5 = w.getLsbD 13 := by
  refine ⟨?_, ?_, ?_, ?_, ?_, ?_⟩ <;>
  · unfold fieldQ
    repeat rw [BitVec.getLsbD_append]
    simp

theorem fieldQ_wordDISP (s z : BitVec 1) (d : Reg) (q : BitVec 6) : fieldQ (wordDISP s z d q) = q := by
  refine BitVec.eq_of_getLsbD_eq fun i hi => ?_
  interval_cases i <;> simp only [fieldQ_bits, wordDISP_bits]

theorem wordDISP_read (s z : BitVec 1) (d : Reg) (q : BitVec 6) :
    ((wordDISP s z d q).extractLsb' 12 4).toNat = 8 + q.toNat / 32 * 2 ∧
    fieldD (wordDISP s z d q) = d ∧ fieldQ (wordDISP s z d q) = q := by
  have htop : (wordDISP s z d q).toNat / 4096 = 8 + q.toNat / 32 * 2 := by rw [wordDISP_toNat]; omega
  refine ⟨?_, ?_, fieldQ_wordDISP s z d q⟩
  · rw [field_toNat]
    omega
  · simp only [← BitVec.toNat_inj, fieldD, wordDISP_toNat, field_toNat, Nat.reducePow]
    omega

theorem wordIO_read (s : BitVec 1) (d : Reg) (a : BitVec 6) :
    ((wordIO s d a).extractLsb' 12 4).toNat = 11 ∧ fieldD (wordIO s d a) = d ∧ fieldA6 (wordIO s d a) = a := by
  have htop : (wordIO s d a).toNat / 4096 = 11 := by rw [wordIO_toNat]; omega
  simp only [← BitVec.toNat_inj, fieldD, fieldA6, wordIO_toNat, append_toNat, field_toNat, Nat.reducePow, Nat.div_one]
  rw [wordIO_toNat] at htop
  omega

theorem wordIOBIT_read (op : BitVec 2) (a : BitVec 5) (b : BitVec 3) :
    ((wordIOBIT op a b).extractLsb' 12 4).toNat = 9 ∧ ((wordIOBIT op a b).extractLsb' 9 3).toNat = 4 + op.toNat / 2 ∧
    ((wordIOBIT op a b).extractLsb' 8 2).toNat = op.toNat ∧
    fieldA5 (wordIOBIT op a b) = a ∧ fieldB (wordIOBIT op a b) = b := by
  simp only [← BitVec.toNat_inj, fieldA5, fieldB, wordIOBIT_toNat, field_toNat, Nat.reducePow, Nat.div_one]
  omega

theorem wordREL12_read (op : BitVec 1) (k : BitVec 12) :
    ((wordREL12 op k).extractLsb' 12 4).toNat = 12 + op.toNat ∧ fieldK12 (wordREL12 op k) = k := by
  simp only [← BitVec.toNat_inj, fieldK12, wordREL12_toNat, field_toNat, Nat.reducePow, Nat.div_one]
  omega

theorem wordABS22_read (op : BitVec 1) (k : PcAddr) :
    ((wordABS22 op k).extractLsb' 12 4).toNat = 9 ∧ ((wordABS22 op k).extractLsb' 9 3).toNat = 2 ∧
    ((wordABS22 op k).extractLsb' 0 4).toNat = 12 + op.toNat * 2 + k.toNat / 65536 % 2 ∧
    fieldK22 (wordABS22 op k) (k.extractLsb' 0 16) = k := by
  have htop : (wordABS22 op k).toNat / 512 = 74 := by rw [wordABS22_toNat]; omega
  simp only [← BitVec.toNat_inj, fieldK22, wordABS22_toNat, append_toNat, field_toNat, Nat.reducePow, Nat.div_one]
  rw [wordABS22_toNat] at htop
  omega

theorem wordBR_read (op : BitVec 1) (n : BitVec 3) (k : BitVec 7) :
    ((wordBR op n k).extractLsb' 12 4).toNat = 15 ∧ fieldB (wordBR op n k) = n ∧ fieldK7 (wordBR op n k) = k := by
  simp only [← BitVec.toNat_inj, fieldB, fieldK7, wordBR_toNat, field_toNat, Nat.reducePow, Nat.div_one]
  omega

theorem wordRBIT_read (op : BitVec 2) (d : Reg) (b : BitVec 3) :
    ((wordRBIT op d b).extractLsb' 12 4).toNat = 15 ∧ ((wordRBIT op d b).extractLsb' 9 2).toNat = op.toNat ∧
    fieldD (wordRBIT op d b) = d ∧ fieldB (wordRBIT op d b) = b := by
  simp only [← BitVec.toNat_inj, fieldD, fieldB, wordRBIT_toNat, field_toNat, Nat.reducePow, Nat.div_one]
  omega

theorem wordSREGOP_read (op : BitVec 1) (n : BitVec 3) :
    ((wordSREGOP op n).extractLsb' 12 4).toNat = 9 ∧ ((wordSREGOP op n).extractLsb' 9 3).toNat = 2 ∧
    ((wordSREGOP op n).extractLsb' 0 4).toNat = 8 ∧ fieldS (wordSREGOP op n) = n := by
  simp only [← BitVec.toNat_inj, fieldS, wordSREGOP_toNat, field_toNat, Nat.reducePow, Nat.div_one]
  omega

end Sys2Proof

/-! Every decoded instruction encodes back to the words it was read from (R90, R91, R119), then O2. -/

namespace Sys2Proof

/-! ### The register fields hold what their rows allow (R110) -/

theorem fieldUpperD_isUpper (w : Word) : (fieldUpperD w).isUpper = true := by
  rw [Reg.isUpper_iff, fieldUpperD, append_toNat]
  exact Nat.le_add_right _ _

theorem fieldUpperR_isUpper (w : Word) : (fieldUpperR w).isUpper = true := by
  rw [Reg.isUpper_iff, fieldUpperR, append_toNat]
  exact Nat.le_add_right _ _

theorem fieldMiddleD_isMiddle (w : Word) : (fieldMiddleD w).isMiddle = true := by
  rw [Reg.isMiddle_iff, fieldMiddleD, append_toNat, BitVec.toNat_ofNat]
  omega

theorem fieldMiddleR_isMiddle (w : Word) : (fieldMiddleR w).isMiddle = true := by
  rw [Reg.isMiddle_iff, fieldMiddleR, append_toNat, BitVec.toNat_ofNat]
  omega

theorem fieldEvenD_isEven (w : Word) : (fieldEvenD w).isEven = true := by
  rw [Reg.isEven_iff, fieldEvenD, append_toNat, BitVec.toNat_ofNat]
  omega

theorem fieldEvenR_isEven (w : Word) : (fieldEvenR w).isEven = true := by
  rw [Reg.isEven_iff, fieldEvenR, append_toNat, BitVec.toNat_ofNat]
  omega

theorem fieldPair_isWordPair (w : Word) : (fieldPair w).isWordPair = true := by
  rw [Reg.isWordPair_iff, fieldPair, append_toNat, append_toNat, BitVec.toNat_ofNat, BitVec.toNat_ofNat]
  omega

/-! ### A word of each format from the fields read in it -/

theorem wordRR5_of_fields {w : Word} {op : BitVec 6} (hop : w.toNat / 1024 = op.toNat) :
    wordRR5 op (fieldD w) (fieldR w) = w := by
  simp only [← BitVec.toNat_inj, wordRR5_toNat, fieldD, fieldR, append_toNat, field_toNat, Nat.reducePow, Nat.div_one]
  omega

theorem wordIMM8_of_fields {w : Word} {op : BitVec 4} (hop : w.toNat / 4096 = op.toNat) :
    wordIMM8 op (fieldUpperD w) (fieldK8 w) = w := by
  simp only [← BitVec.toNat_inj, wordIMM8_toNat, fieldUpperD, fieldK8, append_toNat, field_toNat, BitVec.reduceToNat,
    Nat.reducePow, Nat.div_one]
  omega

theorem wordIW_of_fields {w : Word} {op : BitVec 1} (hleading : w.toNat / 512 = 75) (hop : w.getLsbD 8 = op.getLsbD 0) :
    wordIW op (fieldPair w) (fieldK6 w) = w := by
  simp only [bit_eq_decide, decide_eq_decide, Nat.reducePow, Nat.div_one] at hop
  simp only [← BitVec.toNat_inj, wordIW_toNat, fieldPair, fieldK6, append_toNat, field_toNat, BitVec.reduceToNat,
    Nat.reducePow, Nat.div_one]
  omega

theorem wordR1_of_fields {w : Word} {op : BitVec 4} (hleading : w.toNat / 512 = 74)
    (hop : (w.extractLsb' 0 4).toNat = op.toNat) : wordR1 (fieldD w) op = w := by
  simp only [field_toNat, Nat.reducePow, Nat.div_one] at hop
  simp only [← BitVec.toNat_inj, wordR1_toNat, fieldD, field_toNat, Nat.reducePow]
  omega

theorem wordRR4_of_upper {w : Word} {op : BitVec 2} (hop : w.toNat / 256 = op.toNat) :
    wordRR4 op ((fieldUpperD w).extractLsb' 0 4) ((fieldUpperR w).extractLsb' 0 4) = w := by
  simp only [← BitVec.toNat_inj, wordRR4_toNat, fieldUpperD, fieldUpperR, append_toNat, field_toNat,
    BitVec.reduceToNat, Nat.reducePow, Nat.div_one]
  omega

theorem wordRR4_of_even {w : Word} {op : BitVec 2} (hop : w.toNat / 256 = op.toNat) :
    wordRR4 op ((fieldEvenD w).extractLsb' 1 4) ((fieldEvenR w).extractLsb' 1 4) = w := by
  simp only [← BitVec.toNat_inj, wordRR4_toNat, fieldEvenD, fieldEvenR, append_toNat, field_toNat, BitVec.reduceToNat,
    Nat.reducePow, Nat.div_one]
  omega

theorem wordRR3_of_fields {w : Word} {op1 op2 : BitVec 1} (hleading : w.toNat / 256 = 3)
    (hop1 : w.getLsbD 7 = op1.getLsbD 0) (hop2 : w.getLsbD 3 = op2.getLsbD 0) :
    wordRR3 op1 (fieldMiddleD w) op2 (fieldMiddleR w) = w := by
  simp only [bit_eq_decide, decide_eq_decide, Nat.reducePow, Nat.div_one] at hop1 hop2
  simp only [← BitVec.toNat_inj, wordRR3_toNat, fieldMiddleD, fieldMiddleR, append_toNat, field_toNat,
    BitVec.reduceToNat, Nat.reducePow, Nat.div_one]
  omega

theorem wordLDST_of_fields {w : Word} {s : BitVec 1} {mode : BitVec 4} (hleading : w.toNat / 512 = 72 + s.toNat)
    (hmode : (w.extractLsb' 0 4).toNat = mode.toNat) : wordLDST s (fieldD w) mode = w := by
  simp only [field_toNat, Nat.reducePow, Nat.div_one] at hmode
  simp only [← BitVec.toNat_inj, wordLDST_toNat, fieldD, field_toNat, Nat.reducePow]
  omega

theorem wordDISP_of_fields {w : Word} {s z : BitVec 1}
    (hgroup : (w.extractLsb' 12 4).toNat = 8 ∨ (w.extractLsb' 12 4).toNat = 10)
    (hs : w.getLsbD 9 = s.getLsbD 0) (hz : w.getLsbD 3 = z.getLsbD 0) : wordDISP s z (fieldD w) (fieldQ w) = w := by
  have hleading : w.getLsbD 12 = false ∧ w.getLsbD 14 = false ∧ w.getLsbD 15 = true := by
    rcases hgroup with h | h <;>
    · have hbits := getLsbD_of_field h
      exact ⟨hbits 0 (by decide), hbits 2 (by decide), hbits 3 (by decide)⟩
  refine BitVec.eq_of_getLsbD_eq fun i hi => ?_
  interval_cases i <;> simp [-BitVec.getLsbD_eq_getElem, wordDISP_bits, fieldQ_bits, fieldD, hleading, hs, hz]

theorem wordIO_of_fields {w : Word} {s : BitVec 1} (hleading : w.toNat / 4096 = 11) (hs : w.getLsbD 11 = s.getLsbD 0) :
    wordIO s (fieldD w) (fieldA6 w) = w := by
  simp only [bit_eq_decide, decide_eq_decide, Nat.reducePow, Nat.div_one] at hs
  simp only [← BitVec.toNat_inj, wordIO_toNat, fieldD, fieldA6, append_toNat, field_toNat, Nat.reducePow, Nat.div_one]
  omega

theorem wordIOBIT_of_fields {w : Word} {op : BitVec 2} (hop : w.toNat / 256 = 0x98 + op.toNat) :
    wordIOBIT op (fieldA5 w) (fieldB w) = w := by
  simp only [← BitVec.toNat_inj, wordIOBIT_toNat, fieldA5, fieldB, field_toNat, Nat.reducePow, Nat.div_one]
  omega

theorem wordREL12_of_fields {w : Word} {op : BitVec 1} (hop : w.toNat / 4096 = 12 + op.toNat) :
    wordREL12 op (fieldK12 w) = w := by
  simp only [← BitVec.toNat_inj, wordREL12_toNat, fieldK12, field_toNat, Nat.reducePow, Nat.div_one]
  omega

theorem wordABS22_of_fields {w : Word} {op : BitVec 1} (hleading : w.toNat / 512 = 74)
    (hop : (w.extractLsb' 0 4).toNat / 2 = 6 + op.toNat) (w2 : Word) : wordABS22 op (fieldK22 w w2) = w := by
  simp only [field_toNat, Nat.reducePow, Nat.div_one] at hop
  simp only [← BitVec.toNat_inj, wordABS22_toNat, fieldK22, append_toNat, field_toNat, Nat.reducePow, Nat.div_one]
  omega

theorem wordBR_of_fields {w : Word} {op : BitVec 1} (hleading : w.toNat / 2048 = 30) (hop : w.getLsbD 10 = op.getLsbD 0) :
    wordBR op (fieldB w) (fieldK7 w) = w := by
  simp only [bit_eq_decide, decide_eq_decide, Nat.reducePow, Nat.div_one] at hop
  simp only [← BitVec.toNat_inj, wordBR_toNat, fieldB, fieldK7, field_toNat, Nat.reducePow, Nat.div_one]
  omega

theorem wordRBIT_of_fields {w : Word} {op : BitVec 2} (hleading : w.toNat / 2048 = 31)
    (hop : (w.extractLsb' 9 2).toNat = op.toNat) (hbit : w.getLsbD 3 = false) : wordRBIT op (fieldD w) (fieldB w) = w := by
  simp only [bit_eq_decide, decide_eq_false_iff_not, Nat.reducePow] at hbit
  simp only [field_toNat, Nat.reducePow] at hop
  simp only [← BitVec.toNat_inj, wordRBIT_toNat, fieldD, fieldB, field_toNat, Nat.reducePow, Nat.div_one]
  omega

theorem wordSREGOP_of_fields {w : Word} {op : BitVec 1} (hleading : w.toNat / 256 = 0x94)
    (hop : w.getLsbD 7 = op.getLsbD 0) (hmode : (w.extractLsb' 0 4).toNat = 8) : wordSREGOP op (fieldS w) = w := by
  simp only [bit_eq_decide, decide_eq_decide, Nat.reducePow, Nat.div_one] at hop
  simp only [field_toNat, Nat.reducePow, Nat.div_one] at hmode
  simp only [← BitVec.toNat_inj, wordSREGOP_toNat, fieldS, field_toNat, Nat.reducePow]
  omega

theorem fieldK22_low (w w2 : Word) : (fieldK22 w w2).extractLsb' 0 16 = w2 := by
  simp only [← BitVec.toNat_inj, fieldK22, append_toNat, field_toNat, Nat.reducePow, Nat.div_one]
  omega

/-! ### The second word -/

/-- The second word of an instruction that has one (R90). -/
def Instr.secondWord : Instr → Option Word
  | .lds _ k => some k
  | .sts k _ => some k
  | .jmp k => some (k.extractLsb' 0 16)
  | .call k => some (k.extractLsb' 0 16)
  | _ => none

theorem encode_eq_secondWord (i : Instr) : encode i = encodeFirst i :: i.secondWord.toList := by
  cases i <;> rfl

theorem secondWord_expand (i : Instr) : i.expand.secondWord = i.secondWord := by
  cases i <;> rfl

/-! ### What is read from a word -/

/-- What every part of the decoder keeps: the instruction it answers for a word is well-formed, a real row's, has that word
as its first, and takes its second, where it has one, as it stands. -/
structure ReadFrom (w w2 : Word) (i : Instr) : Prop where
  wf : i.wf = true
  real : i.expand = i
  first : encodeFirst i = w
  second : i.secondWord = none ∨ i.secondWord = some w2

/-- The leading bits down to `start`, from those above a field and the field. -/
theorem leading_extend {w : Word} {above field : Nat} (start len : Nat) (habove : w.toNat / 2 ^ (start + len) = above)
    (hfield : (w.extractLsb' start len).toNat = field) : w.toNat / 2 ^ start = above * 2 ^ len + field := by
  rw [← habove, ← hfield, field_toNat, Nat.pow_add, ← Nat.div_div_eq_div_mul, Nat.mul_comm]
  exact (Nat.div_add_mod _ _).symm

/-- The same with one bit for the field. -/
theorem leading_extend_bit {w : Word} {above : Nat} {bit : Bool} (start : Nat) (habove : w.toNat / 2 ^ (start + 1) = above)
    (hbit : w.getLsbD start = bit) : w.toNat / 2 ^ start = above * 2 + bit.toNat := by
  have hfield : (w.extractLsb' start 1).toNat = bit.toNat := by
    rw [field_toNat, ← hbit, bit_eq_decide, Nat.pow_one]
    rcases Nat.mod_two_eq_zero_or_one (w.toNat / 2 ^ start) with h | h <;> simp [h]
  exact leading_extend start 1 habove hfield

theorem mode_toNat (w : Word) : (w.extractLsb' 0 4).toNat = w.toNat % 16 :=
  (field_toNat w 0 4).trans (congrArg (· % 16) (Nat.div_one _))

theorem group_toNat (w : Word) : (w.extractLsb' 12 4).toNat = w.toNat / 4096 := by
  rw [field_toNat]
  exact Nat.mod_eq_of_lt (by omega)

/-- A word without operands, from all its bits. -/
theorem eq_of_leading {w word : Word} {above mode : Nat} (habove : w.toNat / 2 ^ 4 = above)
    (hmode : (w.extractLsb' 0 4).toNat = mode) (hword : word.toNat = above * 2 ^ 4 + mode := by rfl) : word = w := by
  apply BitVec.eq_of_toNat_eq
  have hall := leading_extend 0 4 habove hmode
  rw [hword, ← hall, Nat.pow_zero, Nat.div_one]

theorem twoBits_eq_zero {v : BitVec 2} (h1 : v.toNat ≠ 1) (h2 : v.toNat ≠ 2) (h3 : v.toNat ≠ 3) : v.toNat = 0 := by
  omega

theorem twoBits_eq_three {v : BitVec 2} (h0 : v.toNat ≠ 0) (h1 : v.toNat ≠ 1) (h2 : v.toNat ≠ 2) : v.toNat = 3 := by
  omega

section
variable {w w2 : Word} {i : Instr}

theorem decodeGroup0_readFrom (hgroup : w.toNat / 4096 = 0) (h : decodeGroup0 w = some i) : ReadFrom w w2 i := by
  unfold decodeGroup0 at h
  split at h
  case h_1 hrow | h_2 hrow | h_3 hrow =>
    cases h
    exact ⟨rfl, rfl, wordRR5_of_fields (leading_extend 10 2 hgroup hrow), .inl rfl⟩
  case h_4 h1 h2 h3 =>
    have hleading := leading_extend 10 2 hgroup (twoBits_eq_zero h1 h2 h3)
    split at h
    case h_1 =>
      split at h
      next hzero =>
        cases h
        exact ⟨rfl, rfl, (beq_iff_eq.1 hzero).symm, .inl rfl⟩
      next => cases h
    case h_2 hmode =>
      cases h
      exact ⟨Bool.and_eq_true_iff.2 ⟨fieldEvenD_isEven w, fieldEvenR_isEven w⟩, rfl,
        wordRR4_of_even (leading_extend 8 2 hleading hmode), .inl rfl⟩
    case h_3 hmode =>
      cases h
      exact ⟨Bool.and_eq_true_iff.2 ⟨fieldUpperD_isUpper w, fieldUpperR_isUpper w⟩, rfl,
        wordRR4_of_upper (leading_extend 8 2 hleading hmode), .inl rfl⟩
    case h_4 h0 h1 h2 =>
      have hmode := leading_extend 8 2 hleading (twoBits_eq_three h0 h1 h2)
      have hwf := Bool.and_eq_true_iff.2 ⟨fieldMiddleD_isMiddle w, fieldMiddleR_isMiddle w⟩
      split at h
      all_goals
        cases h
        exact ⟨hwf, rfl, wordRR3_of_fields hmode ‹_› ‹_›, .inl rfl⟩

theorem decodeGroup1_readFrom (hgroup : w.toNat / 4096 = 1) (h : decodeGroup1 w = some i) : ReadFrom w w2 i := by
  unfold decodeGroup1 at h
  split at h
  case h_1 hrow | h_2 hrow | h_3 hrow =>
    cases h
    exact ⟨rfl, rfl, wordRR5_of_fields (leading_extend 10 2 hgroup hrow), .inl rfl⟩
  case h_4 h0 h1 h2 =>
    cases h
    exact ⟨rfl, rfl, wordRR5_of_fields (leading_extend 10 2 hgroup (twoBits_eq_three h0 h1 h2)), .inl rfl⟩

theorem decodeGroup2_readFrom (hgroup : w.toNat / 4096 = 2) (h : decodeGroup2 w = some i) : ReadFrom w w2 i := by
  unfold decodeGroup2 at h
  split at h
  case h_1 hrow | h_2 hrow | h_3 hrow =>
    cases h
    exact ⟨rfl, rfl, wordRR5_of_fields (leading_extend 10 2 hgroup hrow), .inl rfl⟩
  case h_4 h0 h1 h2 =>
    cases h
    exact ⟨rfl, rfl, wordRR5_of_fields (leading_extend 10 2 hgroup (twoBits_eq_three h0 h1 h2)), .inl rfl⟩

theorem decodeDisp_readFrom (hgroup : (w.extractLsb' 12 4).toNat = 8 ∨ (w.extractLsb' 12 4).toNat = 10)
    (h : decodeDisp w = some i) : ReadFrom w w2 i := by
  unfold decodeDisp at h
  split at h
  all_goals
    cases h
    exact ⟨rfl, rfl, wordDISP_of_fields hgroup ‹_› ‹_›, .inl rfl⟩

theorem decodeLoad_readFrom (hleading : w.toNat / 512 = 72) (h : decodeLoad w w2 = some i) : ReadFrom w w2 i := by
  unfold decodeLoad at h
  split at h
  case h_1 hmode =>
    cases h
    exact ⟨rfl, rfl, wordLDST_of_fields hleading hmode, .inr rfl⟩
  case h_14 => cases h
  all_goals
    cases h
    exact ⟨rfl, rfl, wordLDST_of_fields hleading ‹_›, .inl rfl⟩

theorem decodeStore_readFrom (hleading : w.toNat / 512 = 73) (h : decodeStore w w2 = some i) : ReadFrom w w2 i := by
  unfold decodeStore at h
  split at h
  case h_1 hmode =>
    cases h
    exact ⟨rfl, rfl, wordLDST_of_fields hleading hmode, .inr rfl⟩
  case h_10 => cases h
  all_goals
    cases h
    exact ⟨rfl, rfl, wordLDST_of_fields hleading ‹_›, .inl rfl⟩

theorem decodeFixed8_readFrom (hleading : w.toNat / 512 = 74) (hmode : (w.extractLsb' 0 4).toNat = 8)
    (h : decodeFixed8 w = some i) : ReadFrom w w2 i := by
  unfold decodeFixed8 at h
  split at h
  case h_1 hhalf hop | h_2 hhalf hop =>
    cases h
    exact ⟨rfl, rfl, wordSREGOP_of_fields (leading_extend_bit 8 hleading hhalf) hop hmode, .inl rfl⟩
  case h_3 hhalf =>
    split at h
    case h_9 => cases h
    all_goals
      cases h
      have hbyte := leading_extend 4 4 (leading_extend_bit 8 hleading hhalf) ‹_›
      exact ⟨rfl, rfl, eq_of_leading hbyte hmode, .inl rfl⟩

theorem decodeFixed9_readFrom (hleading : w.toNat / 512 = 74) (hmode : (w.extractLsb' 0 4).toNat = 9)
    (h : decodeFixed9 w = some i) : ReadFrom w w2 i := by
  unfold decodeFixed9 at h
  split at h
  case h_5 => cases h
  all_goals
    cases h
    exact ⟨rfl, rfl, eq_of_leading (leading_extend 4 5 hleading ‹_›) hmode, .inl rfl⟩

theorem decodeGroup94_readFrom (hleading : w.toNat / 512 = 74) (h : decodeGroup94 w w2 = some i) : ReadFrom w w2 i := by
  unfold decodeGroup94 at h
  split at h
  case h_8 hmode => exact decodeFixed8_readFrom hleading hmode h
  case h_9 hmode => exact decodeFixed9_readFrom hleading hmode h
  case h_11 hmode | h_12 hmode | h_13 hmode | h_14 hmode =>
    cases h
    exact ⟨rfl, rfl, wordABS22_of_fields hleading (congrArg (· / 2) hmode) w2, .inr (congrArg some (fieldK22_low w w2))⟩
  case h_15 => cases h
  all_goals
    cases h
    exact ⟨rfl, rfl, wordR1_of_fields hleading ‹_›, .inl rfl⟩

theorem decodeIoBit_readFrom (hleading : w.toNat / 1024 = 38) (h : decodeIoBit w = some i) : ReadFrom w w2 i := by
  unfold decodeIoBit at h
  split at h
  case h_1 hop | h_2 hop | h_3 hop =>
    cases h
    exact ⟨rfl, rfl, wordIOBIT_of_fields (leading_extend 8 2 hleading hop), .inl rfl⟩
  case h_4 h0 h1 h2 =>
    cases h
    exact ⟨rfl, rfl, wordIOBIT_of_fields (leading_extend 8 2 hleading (twoBits_eq_three h0 h1 h2)), .inl rfl⟩

theorem decodeGroup9_readFrom (hgroup : w.toNat / 4096 = 9) (h : decodeGroup9 w w2 = some i) : ReadFrom w w2 i := by
  unfold decodeGroup9 at h
  split at h
  case h_1 hrow => exact decodeLoad_readFrom (leading_extend 9 3 hgroup hrow) h
  case h_2 hrow => exact decodeStore_readFrom (leading_extend 9 3 hgroup hrow) h
  case h_3 hrow => exact decodeGroup94_readFrom (leading_extend 9 3 hgroup hrow) h
  case h_4 hrow =>
    have hleading := leading_extend 9 3 hgroup hrow
    split at h
    next hop =>
      cases h
      exact ⟨fieldPair_isWordPair w, rfl, wordIW_of_fields hleading hop, .inl rfl⟩
    next hop =>
      cases h
      exact ⟨fieldPair_isWordPair w, rfl, wordIW_of_fields hleading (eq_false_of_ne_true hop), .inl rfl⟩
  case h_5 hrow | h_6 hrow =>
    have hleading := leading_extend 9 3 hgroup hrow
    exact decodeIoBit_readFrom (by omega) h
  case h_7 =>
    cases h
    have hrow : 6 ≤ (w.extractLsb' 9 3).toNat := by
      simp only [imp_false] at *
      omega
    have hleading := leading_extend 9 3 hgroup rfl
    exact ⟨rfl, rfl, wordRR5_of_fields (by rw [BitVec.toNat_ofNat]; omega), .inl rfl⟩

theorem decodeGroupF_readFrom (hgroup : w.toNat / 4096 = 15) (h : decodeGroupF w = some i) : ReadFrom w w2 i := by
  unfold decodeGroupF at h
  split at h
  case h_1 hhalf =>
    have hleading := leading_extend_bit 11 hgroup hhalf
    split at h
    next hop =>
      cases h
      exact ⟨rfl, rfl, wordBR_of_fields hleading hop, .inl rfl⟩
    next hop =>
      cases h
      exact ⟨rfl, rfl, wordBR_of_fields hleading (eq_false_of_ne_true hop), .inl rfl⟩
  case h_2 => cases h
  case h_3 hhalf hbit =>
    have hleading := leading_extend_bit 11 hgroup hhalf
    split at h
    case h_1 hop | h_2 hop | h_3 hop =>
      cases h
      exact ⟨rfl, rfl, wordRBIT_of_fields hleading hop hbit, .inl rfl⟩
    case h_4 h0 h1 h2 =>
      cases h
      exact ⟨rfl, rfl, wordRBIT_of_fields hleading (twoBits_eq_three h0 h1 h2) hbit, .inl rfl⟩

theorem decodeWords_readFrom (h : decodeWords w w2 = some i) : ReadFrom w w2 i := by
  unfold decodeWords at h
  rw [group_toNat] at h
  split at h
  case h_1 hgroup => exact decodeGroup0_readFrom hgroup h
  case h_2 hgroup => exact decodeGroup1_readFrom hgroup h
  case h_3 hgroup => exact decodeGroup2_readFrom hgroup h
  case h_4 hgroup | h_5 hgroup | h_6 hgroup | h_7 hgroup | h_8 hgroup | h_15 hgroup =>
    cases h
    exact ⟨fieldUpperD_isUpper w, rfl, wordIMM8_of_fields hgroup, .inl rfl⟩
  case h_9 hgroup => exact decodeDisp_readFrom (.inl ((group_toNat w).trans hgroup)) h
  case h_10 hgroup => exact decodeGroup9_readFrom hgroup h
  case h_11 hgroup => exact decodeDisp_readFrom (.inr ((group_toNat w).trans hgroup)) h
  case h_12 hgroup =>
    split at h
    next hs =>
      cases h
      exact ⟨rfl, rfl, wordIO_of_fields hgroup hs, .inl rfl⟩
    next hs =>
      cases h
      exact ⟨rfl, rfl, wordIO_of_fields hgroup (eq_false_of_ne_true hs), .inl rfl⟩
  case h_13 hgroup | h_14 hgroup =>
    cases h
    exact ⟨rfl, rfl, wordREL12_of_fields hgroup, .inl rfl⟩
  case h_16 =>
    have hgroup : w.toNat / 4096 = 15 := by
      simp only [imp_false] at *
      omega
    exact decodeGroupF_readFrom hgroup h

end

/-! ### Masks -/

theorem and_eq_iff_bits {w mask pattern : Word} (hpattern : pattern &&& mask = pattern) :
    w &&& mask = pattern ↔ ∀ i < 16, mask.getLsbD i = true → w.getLsbD i = pattern.getLsbD i := by
  constructor
  · intro h i _ hm
    rw [← h, BitVec.getLsbD_and, hm, Bool.and_true]
  · intro h
    refine BitVec.eq_of_getLsbD_eq fun i hi => ?_
    rw [← hpattern, BitVec.getLsbD_and, BitVec.getLsbD_and]
    cases hm : mask.getLsbD i with
    | false => rw [Bool.and_false, Bool.and_false]
    | true => rw [h i hi hm]

theorem field_eq_iff_bits {v w : Word} (start len : Nat) :
    v.toNat / 2 ^ start % 2 ^ len = w.toNat / 2 ^ start % 2 ^ len ↔
      ∀ i < len, v.getLsbD (start + i) = w.getLsbD (start + i) := by
  have hbit (x : Word) {i : Nat} (hi : i < len) : (x.extractLsb' start len).getLsbD i = x.getLsbD (start + i) := by
    rw [BitVec.getLsbD_extractLsb', decide_eq_true hi, Bool.true_and]
  rw [← field_toNat, ← field_toNat, BitVec.toNat_inj]
  refine ⟨fun h i hi => ?_, fun h => BitVec.eq_of_getLsbD_eq fun i hi => ?_⟩
  · rw [← hbit v hi, h, hbit w hi]
  · rw [hbit v hi, hbit w hi, h i hi]

/-- A word agrees with a pattern under a mask that keeps the bits from `high` on and the `len` bits from `low` on exactly
when those two fields agree. -/
theorem and_eq_iff_fields {w mask pattern : Word} (high low len : Nat) (hpattern : pattern &&& mask = pattern)
    (hmask : ∀ i < 16, mask.getLsbD i = true ↔ high ≤ i ∨ low ≤ i ∧ i < low + len) (hlen : high ≤ 16 ∧ low + len ≤ 16) :
    w &&& mask = pattern ↔ w.toNat / 2 ^ high = pattern.toNat / 2 ^ high ∧
      w.toNat / 2 ^ low % 2 ^ len = pattern.toNat / 2 ^ low % 2 ^ len := by
  have htop (v : Word) : v.toNat / 2 ^ high = v.toNat / 2 ^ high % 2 ^ (16 - high) := by
    refine (Nat.mod_eq_of_lt (Nat.div_lt_of_lt_mul ?_)).symm
    rw [← Nat.pow_add, Nat.add_sub_of_le hlen.1]
    exact v.isLt
  rw [and_eq_iff_bits hpattern, htop w, htop pattern, field_eq_iff_bits, field_eq_iff_bits]
  constructor
  · intro h
    refine ⟨fun i hi => h _ (by omega) ?_, fun i hi => h _ (by omega) ?_⟩
    · exact (hmask _ (by omega)).2 (.inl (by omega))
    · exact (hmask _ (by omega)).2 (.inr (by omega))
  · rintro ⟨hhigh, hlow⟩ i hi hm
    rcases (hmask i hi).1 hm with h | h
    · have hbit := hhigh (i - high) (by omega)
      rwa [Nat.add_sub_of_le h] at hbit
    · have hbit := hlow (i - low) (by omega)
      rwa [Nat.add_sub_of_le h.1] at hbit

/-! ### One word or two -/

theorem isTwoWord_iff (w : Word) :
    isTwoWord w = true ↔ w.toNat / 1024 = 36 ∧ w.toNat % 16 = 0 ∨ w.toNat / 512 = 74 ∧ w.toNat / 4 % 4 = 3 := by
  have hdirect : w &&& 0xFC0F#16 = 0x9000#16 ↔ w.toNat / 1024 = 36 ∧ w.toNat / 1 % 16 = 0 :=
    and_eq_iff_fields 10 0 4 rfl (by decide) (by decide)
  have habsolute : w &&& 0xFE0C#16 = 0x940C#16 ↔ w.toNat / 512 = 74 ∧ w.toNat / 4 % 4 = 3 :=
    and_eq_iff_fields 9 2 2 rfl (by decide) (by decide)
  rw [isTwoWord, Bool.or_eq_true, beq_iff_eq, beq_iff_eq, hdirect, habsolute, Nat.div_one]

theorem decodeGroup94_of_jmp {w : Word} (h : (w.extractLsb' 0 4).toNat / 2 = 6) (w2 : Word) :
    decodeGroup94 w w2 = some (.jmp (fieldK22 w w2)) := by
  have hmode : (w.extractLsb' 0 4).toNat = 12 ∨ (w.extractLsb' 0 4).toNat = 13 := by omega
  rcases hmode with h | h <;> simp only [decodeGroup94, h]

theorem decodeGroup94_of_call {w : Word} (h : (w.extractLsb' 0 4).toNat / 2 = 7) (w2 : Word) :
    decodeGroup94 w w2 = some (.call (fieldK22 w w2)) := by
  have hmode : (w.extractLsb' 0 4).toNat = 14 ∨ (w.extractLsb' 0 4).toNat = 15 := by omega
  rcases hmode with h | h <;> simp only [decodeGroup94, h]

theorem decodeWords_of_group9 {w : Word} (h : w.toNat / 4096 = 9) (w2 : Word) : decodeWords w w2 = decodeGroup9 w w2 := by
  simp only [decodeWords, group_toNat, h]

/-- A word that announces a second one is one of LDS, STS, JMP and CALL, and the second word stands in it as it is (R91). -/
theorem decodeWords_of_twoWord {w : Word} (h : isTwoWord w = true) (w2 : Word) :
    ∃ i, decodeWords w w2 = some i ∧ i.secondWord = some w2 := by
  rw [isTwoWord_iff] at h
  rw [decodeWords_of_group9 (by omega)]
  rcases h with ⟨hleading, hmode⟩ | ⟨hleading, hmode⟩
  · have hzero : (w.extractLsb' 0 4).toNat = 0 := (mode_toNat w).trans hmode
    have hrow : (w.extractLsb' 9 3).toNat = 0 ∨ (w.extractLsb' 9 3).toNat = 1 := by
      rw [field_toNat]
      omega
    rcases hrow with hrow | hrow
    · exact ⟨.lds (fieldD w) w2, by simp only [decodeGroup9, decodeLoad, hrow, hzero], rfl⟩
    · exact ⟨.sts w2 (fieldD w), by simp only [decodeGroup9, decodeStore, hrow, hzero], rfl⟩
  · have hrow : (w.extractLsb' 9 3).toNat = 2 := by
      rw [field_toNat]
      omega
    have hop : (w.extractLsb' 0 4).toNat / 2 = 6 ∨ (w.extractLsb' 0 4).toNat / 2 = 7 := by
      rw [mode_toNat]
      omega
    simp only [decodeGroup9, hrow]
    rcases hop with hop | hop
    · exact ⟨_, decodeGroup94_of_jmp hop w2, congrArg some (fieldK22_low w w2)⟩
    · exact ⟨_, decodeGroup94_of_call hop w2, congrArg some (fieldK22_low w w2)⟩

/-- A word that announces no second one decodes to an instruction without: it decodes the same before every second word. -/
theorem secondWord_of_oneWord {w w2 : Word} {i : Instr} (h : isTwoWord w = false) (hdecode : decodeWords w w2 = some i) :
    i.secondWord = none := by
  have hother : decodeWords w (~~~w2) = some i := (decodeWords_of_oneWord h _ w2).trans hdecode
  obtain ⟨-, -, -, hnone | hsome⟩ := decodeWords_readFrom hdecode
  · exact hnone
  · obtain ⟨-, -, -, hnone | hsome'⟩ := decodeWords_readFrom hother
    · exact hnone
    · rw [hsome] at hsome'
      exact absurd (Option.some.inj hsome') (BitVec.ne_not_self (by decide))

/-- The second word of a decoded instruction (R90, R91). -/
theorem secondWord_of_decode {w w2 : Word} {i : Instr} (h : decodeWords w w2 = some i) :
    i.secondWord = if isTwoWord w then some w2 else none := by
  cases htwo : isTwoWord w with
  | true =>
    obtain ⟨j, hj, hsecond⟩ := decodeWords_of_twoWord htwo w2
    rw [if_pos rfl, Option.some.inj (h.symm.trans hj), hsecond]
  | false => exact secondWord_of_oneWord htwo h

/-- Settles O2: what was read has that first word, and its second word where one was announced. -/
theorem decodedWordsEncodeBack : Obligations.DecodedWordsEncodeBack := by
  intro w w2 i h
  obtain ⟨hwf, hreal, hfirst, -⟩ := decodeWords_readFrom h
  refine ⟨hwf, hreal, ?_⟩
  rw [encode_eq_secondWord, hfirst, secondWord_of_decode h]
  cases isTwoWord w <;> rfl

end Sys2Proof

/-! Every well-formed instruction decodes from its own words (R118, R119), then O1. -/

namespace Sys2Proof

/-! ### Rows of which a field lies across the bits that tell them apart -/

theorem decodeWords_of_disp {w : Word} (h : (w.extractLsb' 12 4).toNat = 8 ∨ (w.extractLsb' 12 4).toNat = 10) (w2 : Word) :
    decodeWords w w2 = decodeDisp w := by
  rcases h with h | h <;> simp only [decodeWords, h]

theorem decodeGroup9_of_mul {w : Word} (h : 6 ≤ (w.extractLsb' 9 3).toNat) (w2 : Word) :
    decodeGroup9 w w2 = some (.mul (fieldD w) (fieldR w)) := by
  unfold decodeGroup9
  split
  case h_7 => rfl
  all_goals omega

theorem decodeWords_wordDISP (s z : BitVec 1) (d : Reg) (q : BitVec 6) (w2 : Word) :
    decodeWords (wordDISP s z d q) w2 = decodeDisp (wordDISP s z d q) := by
  obtain ⟨hgroup, -⟩ := wordDISP_read s z d q
  exact decodeWords_of_disp (by omega) w2

theorem decodeWords_wordRR5_mul (d r : Reg) (w2 : Word) :
    decodeWords (wordRR5 0b100111#6 d r) w2 = some (.mul d r) := by
  obtain ⟨hgroup, -, hrow, hd, hr⟩ := wordRR5_read 0b100111#6 d r
  rw [BitVec.toNat_ofNat] at hgroup hrow
  simp only [decodeWords, hgroup]
  rw [decodeGroup9_of_mul (by omega), hd, hr]

theorem decodeWords_wordABS22_jmp (k : PcAddr) :
    decodeWords (wordABS22 0#1 k) (k.extractLsb' 0 16) = some (.jmp k) := by
  obtain ⟨hgroup, hrow, hmode, hk⟩ := wordABS22_read 0#1 k
  rw [BitVec.toNat_ofNat] at hmode
  simp only [decodeWords, decodeGroup9, hgroup, hrow]
  rw [decodeGroup94_of_jmp (by omega), hk]

theorem decodeWords_wordABS22_call (k : PcAddr) :
    decodeWords (wordABS22 1#1 k) (k.extractLsb' 0 16) = some (.call k) := by
  obtain ⟨hgroup, hrow, hmode, hk⟩ := wordABS22_read 1#1 k
  rw [BitVec.toNat_ofNat] at hmode
  simp only [decodeWords, decodeGroup9, hgroup, hrow]
  rw [decodeGroup94_of_call (by omega), hk]

theorem decodeWords_encodeFirst {i : Instr} (h : i.wf = true) :
    decodeWords (encodeFirst i) (i.secondWord.getD 0#16) = some i.expand := by
  cases i
  case add | adc | sub | sbc | and | or | eor | mov | cpse | cp | cpc | lsl | rol | tst | clr =>
    simp only [encodeFirst, decodeWords, decodeGroup0, decodeGroup1, decodeGroup2, wordRR5_read]
    rfl
  case mul d r => exact decodeWords_wordRR5_mul d r _
  case subi | sbci | andi | ori | sbr | cbr | ldi | cpi | ser =>
    simp only [encodeFirst, decodeWords, wordIMM8_read _ _ h]
    rfl
  case adiw | sbiw =>
    simp only [encodeFirst, decodeWords, decodeGroup9, wordIW_read _ _ h, wordIW_bits]
    rfl
  case com | neg | inc | dec | lsr | ror | asr | swap =>
    simp only [encodeFirst, decodeWords, decodeGroup9, decodeGroup94, wordR1_read]
    rfl
  case muls d r =>
    obtain ⟨hd, hr⟩ := Bool.and_eq_true_iff.1 h
    simp only [encodeFirst, decodeWords, decodeGroup0, wordRR4_read, wordRR4_upper _ hd hr]
    rfl
  case movw d r =>
    obtain ⟨hd, hr⟩ := Bool.and_eq_true_iff.1 h
    simp only [encodeFirst, decodeWords, decodeGroup0, wordRR4_read, wordRR4_even _ hd hr]
    rfl
  case mulsu d r | fmul d r | fmuls d r | fmulsu d r =>
    obtain ⟨hd, hr⟩ := Bool.and_eq_true_iff.1 h
    simp only [encodeFirst, decodeWords, decodeGroup0, wordRR3_read _ _ hd hr, wordRR3_bits]
    rfl
  case lds | ldX | ldXInc | ldYInc | ldZInc | ldXDec | ldYDec | ldZDec | lpmZ | lpmZInc | elpmZ | elpmZInc | pop =>
    simp only [encodeFirst, decodeWords, decodeGroup9, decodeLoad, wordLDST_read]
    rfl
  case sts | stX | stXInc | stYInc | stZInc | stXDec | stYDec | stZDec | push =>
    simp only [encodeFirst, decodeWords, decodeGroup9, decodeStore, wordLDST_read]
    rfl
  case ldY | ldZ | lddY | lddZ | stY | stZ | stdY | stdZ =>
    simp only [encodeFirst, decodeWords_wordDISP, decodeDisp, wordDISP_read, wordDISP_bits]
    rfl
  case ioIn | ioOut =>
    simp only [encodeFirst, decodeWords, wordIO_read, wordIO_bits]
    rfl
  case sbi | cbi | sbic | sbis =>
    simp only [encodeFirst, decodeWords, decodeGroup9, decodeIoBit, wordIOBIT_read]
    rfl
  case rjmp | rcall =>
    simp only [encodeFirst, decodeWords, wordREL12_read]
    rfl
  case jmp k => exact decodeWords_wordABS22_jmp k
  case call k => exact decodeWords_wordABS22_call k
  case sbrc | sbrs | bst | bld =>
    simp only [encodeFirst, decodeWords, decodeGroupF, wordRBIT_read, wordRBIT_bits]
    rfl
  case brbs | brbc | breq | brne | brcs | brcc | brsh | brlo | brmi | brpl | brge | brlt | brhs | brhc | brts | brtc |
    brvs | brvc |
      brie | brid =>
    simp only [encodeFirst, decodeWords, decodeGroupF, wordBR_read, wordBR_bits]
    rfl
  case bset | bclr | sec | clc | sez | clz | sen | cln | sev | clv | ses | cls | seh | clh | set | clt | sei | cli =>
    simp only [encodeFirst, decodeWords, decodeGroup9, decodeGroup94, decodeFixed8, wordSREGOP_read, wordSREGOP_bits]
    rfl
  case nop | lpm | elpm | spm | brk | sleep | wdr | ijmp | eijmp | icall | eicall | ret | reti => rfl

/-! ### Bytes -/

theorem joinBytes_bytes (w : Word) : joinBytes (highByte w) (lowByte w) = w :=
  (BitVec.extractLsb'_append_extractLsb'_eq_extractLsb' rfl).trans BitVec.extractLsb'_eq_self

theorem isTwoWord_encodeFirst {i : Instr} (h : i.wf = true) : isTwoWord (encodeFirst i) = i.secondWord.isSome := by
  have hsecond := secondWord_of_decode (decodeWords_encodeFirst h)
  rw [secondWord_expand] at hsecond
  rw [hsecond]
  cases isTwoWord (encodeFirst i) <;> rfl

/-- The bytes of an instruction's words are read back as those words (R67, R68, R91). -/
theorem decode_encode {i : Instr} (h : i.wf = true) (rest : List Byte) :
    decode (wordBytes (encode i) ++ rest) = decoded (encodeFirst i) (i.secondWord.getD 0#16) rest := by
  have htwo := isTwoWord_encodeFirst h
  rw [encode_eq_secondWord]
  cases hsecond : i.secondWord with
  | none =>
    rw [hsecond] at htwo
    simp only [Option.toList, wordBytes, List.cons_append, List.nil_append, decode, joinBytes_bytes, htwo]
    rfl
  | some w2 =>
    rw [hsecond] at htwo
    simp only [Option.toList, wordBytes, List.cons_append, List.nil_append, decode, joinBytes_bytes, htwo]
    rfl

/-- Settles O1: the bytes give the words back, and the words the instruction. -/
theorem decodeInvertsEncode : Obligations.DecodeInvertsEncode := by
  intro i rest h
  rw [decode_encode h, decoded, decodeWords_encodeFirst h]

end Sys2Proof

/-! The reserved first words (R113, R114): the list of the rule by numbers, and the same numbers where each part of the
decoder answers nothing; then O3. -/

namespace Sys2Proof
open Machine (reservedRows)

/-! ### The list of R114 by numbers -/

/-- The words of the list of R114, row by row, as numbers: the leading bits, the mode, and what a row excepts. -/
def ReservedNumber (n : Nat) : Prop :=
  (n / 256 = 0 ∧ n ≠ 0) ∨
  (n / 512 = 72 ∧ n % 16 ∈ [3, 8, 11]) ∨
  (n / 512 = 73 ∧ n % 16 ∈ [3, 4, 5, 6, 7, 8, 11]) ∨
  (n / 512 = 74 ∧ n % 16 ∈ [4, 11]) ∨
  (n / 512 = 74 ∧ n % 16 = 9 ∧ n ∉ [0x9409, 0x9419, 0x9509, 0x9519]) ∨
  (n / 256 = 149 ∧ n % 16 = 8 ∧ n ∉ [0x9508, 0x9518, 0x9588, 0x9598, 0x95A8, 0x95C8, 0x95D8, 0x95E8]) ∨
  (n / 2048 = 31 ∧ n / 8 % 2 = 1)

theorem and_eq_iff_mode {w pattern : Word} (h : pattern &&& 0xFE0F#16 = pattern) :
    w &&& 0xFE0F#16 = pattern ↔ w.toNat / 512 = pattern.toNat / 512 ∧ w.toNat % 16 = pattern.toNat % 16 := by
  have hfields := and_eq_iff_fields (w := w) 9 0 4 h (by decide) (by decide)
  rwa [Nat.pow_zero, Nat.div_one, Nat.div_one] at hfields

theorem reservedRows_iff_number (w : Word) :
    (∃ r ∈ reservedRows, w &&& r.1 = r.2.1 ∧ w ∉ r.2.2) ↔ ReservedNumber w.toNat := by
  have hzero : w &&& 0xFF00#16 = 0x0000#16 ↔ w.toNat / 256 = 0 ∧ w.toNat / 1 % 1 = 0 :=
    and_eq_iff_fields 8 0 0 rfl (by decide) (by decide)
  have hfixed : w &&& 0xFF0F#16 = 0x9508#16 ↔ w.toNat / 256 = 149 ∧ w.toNat / 1 % 16 = 8 :=
    and_eq_iff_fields 8 0 4 rfl (by decide) (by decide)
  have hbit : w &&& 0xF808#16 = 0xF808#16 ↔ w.toNat / 2048 = 31 ∧ w.toNat / 8 % 2 = 1 :=
    and_eq_iff_fields 11 3 1 rfl (by decide) (by decide)
  simp only [reservedRows, List.mem_cons, exists_eq_or_imp, exists_eq_left, List.not_mem_nil, not_false_eq_true, and_true,
    or_false, hzero, hfixed, hbit, and_eq_iff_mode, BitVec.reduceAnd]
  simp only [ReservedNumber, List.mem_cons, List.not_mem_nil, or_false, ← BitVec.toNat_inj, BitVec.reduceToNat,
    Nat.reduceDiv, Nat.reduceMod, Nat.div_one, Nat.mod_one, and_or_left, or_assoc, and_assoc, true_and, ne_eq]

/-! ### The part of the list in each part of the opcode map -/

theorem not_reservedNumber {n : Nat} (h0 : n / 4096 ≠ 0) (h9 : n / 512 < 72 ∨ 75 ≤ n / 512) (hF : n / 4096 ≠ 15) :
    ¬ ReservedNumber n := by
  rintro (h | h | h | h | h | h | h) <;> omega

theorem reservedNumber_of_group0 {n : Nat} (h : n / 4096 = 0) : ReservedNumber n ↔ n / 256 = 0 ∧ n ≠ 0 := by
  have hrows : n / 512 ≠ 72 ∧ n / 512 ≠ 73 ∧ n / 512 ≠ 74 ∧ n / 256 ≠ 149 ∧ n / 2048 ≠ 31 := by omega
  simp [ReservedNumber, hrows]

theorem reservedNumber_of_load {n : Nat} (h : n / 512 = 72) : ReservedNumber n ↔ n % 16 ∈ [3, 8, 11] := by
  have hrows : n / 256 ≠ 0 ∧ n / 256 ≠ 149 ∧ n / 2048 ≠ 31 := by omega
  simp [ReservedNumber, h, hrows]

theorem reservedNumber_of_store {n : Nat} (h : n / 512 = 73) : ReservedNumber n ↔ n % 16 ∈ [3, 4, 5, 6, 7, 8, 11] := by
  have hrows : n / 256 ≠ 0 ∧ n / 256 ≠ 149 ∧ n / 2048 ≠ 31 := by omega
  simp [ReservedNumber, h, hrows]

theorem reservedNumber_of_group94 {n : Nat} (h : n / 512 = 74) : ReservedNumber n ↔
    n % 16 ∈ [4, 11] ∨ n % 16 = 9 ∧ n ∉ [0x9409, 0x9419, 0x9509, 0x9519] ∨
      n / 256 = 149 ∧ n % 16 = 8 ∧ n ∉ [0x9508, 0x9518, 0x9588, 0x9598, 0x95A8, 0x95C8, 0x95D8, 0x95E8] := by
  have hrows : n / 256 ≠ 0 ∧ n / 2048 ≠ 31 := by omega
  simp [ReservedNumber, h, hrows]

theorem reservedNumber_of_groupF {n : Nat} (h : n / 4096 = 15) : ReservedNumber n ↔ n / 2048 = 31 ∧ n / 8 % 2 = 1 := by
  have hrows : n / 256 ≠ 0 ∧ n / 512 ≠ 72 ∧ n / 512 ≠ 73 ∧ n / 512 ≠ 74 ∧ n / 256 ≠ 149 := by omega
  simp [ReservedNumber, hrows]

/-! ### Where each part of the decoder answers nothing -/

section
variable {w : Word}

theorem decodeGroup0_eq_none (hgroup : w.toNat / 4096 = 0) : decodeGroup0 w = none ↔ ReservedNumber w.toNat := by
  have hrow := leading_extend 10 2 hgroup rfl
  have hpair := leading_extend 8 2 hrow rfl
  rw [reservedNumber_of_group0 hgroup]
  unfold decodeGroup0
  split
  case h_1 h | h_2 h | h_3 h => exact iff_of_false nofun (by omega)
  case h_4 h1 h2 h3 =>
    have hzero := twoBits_eq_zero h1 h2 h3
    split
    case h_1 h =>
      have hsmall : w.toNat / 256 = 0 := by omega
      simp [hsmall, ← BitVec.toNat_inj]
    case h_2 h | h_3 h => exact iff_of_false nofun (by omega)
    case h_4 h0 h1 h2 =>
      have hthree := twoBits_eq_three h0 h1 h2
      split <;> exact iff_of_false nofun (by omega)

theorem decodeLoad_eq_none (htop : w.toNat / 512 = 72) (w2 : Word) : decodeLoad w w2 = none ↔ ReservedNumber w.toNat := by
  have hlt : w.toNat % 16 < 16 := Nat.mod_lt _ (by decide)
  rw [reservedNumber_of_load htop, decodeLoad, mode_toNat]
  generalize w.toNat % 16 = mode at *
  interval_cases mode <;> simp

theorem decodeStore_eq_none (htop : w.toNat / 512 = 73) (w2 : Word) : decodeStore w w2 = none ↔ ReservedNumber w.toNat := by
  have hlt : w.toNat % 16 < 16 := Nat.mod_lt _ (by decide)
  rw [reservedNumber_of_store htop, decodeStore, mode_toNat]
  generalize w.toNat % 16 = mode at *
  interval_cases mode <;> simp

theorem decodeFixed8_eq_none (htop : w.toNat / 512 = 74) (hmode : w.toNat % 16 = 8) :
    decodeFixed8 w = none ↔ w.toNat / 256 = 149 ∧
      w.toNat ∉ [0x9508, 0x9518, 0x9588, 0x9598, 0x95A8, 0x95C8, 0x95D8, 0x95E8] := by
  unfold decodeFixed8
  split
  case h_1 hhalf _ | h_2 hhalf _ =>
    have hzero := leading_extend_bit 8 htop hhalf
    exact iff_of_false nofun fun h => absurd (hzero.symm.trans h.1) (by decide)
  case h_3 hhalf =>
    have hone : w.toNat / 256 = 149 := leading_extend_bit 8 htop hhalf
    have hword : w.toNat = 0x9508 + 16 * (w.extractLsb' 4 4).toNat := by
      rw [field_toNat]
      omega
    have hlt := (w.extractLsb' 4 4).isLt
    rw [hword]
    generalize (w.extractLsb' 4 4).toNat = row at *
    interval_cases row <;> simp

theorem decodeFixed9_eq_none (htop : w.toNat / 512 = 74) (hmode : w.toNat % 16 = 9) :
    decodeFixed9 w = none ↔ w.toNat ∉ [0x9409, 0x9419, 0x9509, 0x9519] := by
  have hword : w.toNat = 0x9409 + 16 * (w.extractLsb' 4 5).toNat := by
    rw [field_toNat]
    omega
  have hlt := (w.extractLsb' 4 5).isLt
  rw [decodeFixed9, hword]
  generalize (w.extractLsb' 4 5).toNat = row at *
  interval_cases row <;> simp

theorem decodeGroup94_eq_none (htop : w.toNat / 512 = 74) (w2 : Word) :
    decodeGroup94 w w2 = none ↔ ReservedNumber w.toNat := by
  have hlt : w.toNat % 16 < 16 := Nat.mod_lt _ (by decide)
  have hfixed8 := decodeFixed8_eq_none htop
  have hfixed9 := decodeFixed9_eq_none htop
  rw [reservedNumber_of_group94 htop, decodeGroup94, mode_toNat]
  generalize w.toNat % 16 = mode at *
  interval_cases mode <;> simp [hfixed8, hfixed9]

theorem decodeIoBit_ne_none (w : Word) : decodeIoBit w ≠ none := by
  unfold decodeIoBit
  split <;> exact nofun

theorem decodeDisp_ne_none (w : Word) : decodeDisp w ≠ none := by
  unfold decodeDisp
  split <;> exact nofun

theorem decodeGroup1_ne_none (w : Word) : decodeGroup1 w ≠ none := by
  unfold decodeGroup1
  split <;> exact nofun

theorem decodeGroup2_ne_none (w : Word) : decodeGroup2 w ≠ none := by
  unfold decodeGroup2
  split <;> exact nofun

theorem decodeGroup9_eq_none (hgroup : w.toNat / 4096 = 9) (w2 : Word) :
    decodeGroup9 w w2 = none ↔ ReservedNumber w.toNat := by
  have htop := leading_extend 9 3 hgroup rfl
  have hother (h : 3 ≤ (w.extractLsb' 9 3).toNat) : ¬ ReservedNumber w.toNat :=
    not_reservedNumber (by omega) (by omega) (by omega)
  unfold decodeGroup9
  split
  case h_1 h => exact decodeLoad_eq_none (leading_extend 9 3 hgroup h) w2
  case h_2 h => exact decodeStore_eq_none (leading_extend 9 3 hgroup h) w2
  case h_3 h => exact decodeGroup94_eq_none (leading_extend 9 3 hgroup h) w2
  case h_4 h => split <;> exact iff_of_false nofun (hother (by omega))
  case h_5 h | h_6 h => exact iff_of_false (decodeIoBit_ne_none w) (hother (by omega))
  case h_7 =>
    refine iff_of_false nofun (hother ?_)
    simp only [imp_false] at *
    omega

theorem decodeGroupF_eq_none (hgroup : w.toNat / 4096 = 15) : decodeGroupF w = none ↔ ReservedNumber w.toNat := by
  rw [reservedNumber_of_groupF hgroup]
  unfold decodeGroupF
  split
  case h_1 h =>
    have htop := leading_extend_bit 11 hgroup h
    have hnot : ¬ (w.toNat / 2048 = 31 ∧ w.toNat / 8 % 2 = 1) := fun h => absurd (htop.symm.trans h.1) (by decide)
    split <;> exact iff_of_false nofun hnot
  case h_2 h hbit =>
    rw [bit_eq_decide, decide_eq_true_iff] at hbit
    exact iff_of_true rfl ⟨leading_extend_bit 11 hgroup h, hbit⟩
  case h_3 h hbit =>
    rw [bit_eq_decide, decide_eq_false_iff_not] at hbit
    have hnot : ¬ (w.toNat / 2048 = 31 ∧ w.toNat / 8 % 2 = 1) := fun h => hbit h.2
    split <;> exact iff_of_false nofun hnot

/-- The decoder answers nothing exactly for the numbers of the list (R113, R114). -/
theorem decodeWords_eq_none (w w2 : Word) : decodeWords w w2 = none ↔ ReservedNumber w.toNat := by
  have hother (h0 : w.toNat / 4096 ≠ 0) (h9 : w.toNat / 4096 ≠ 9) (hF : w.toNat / 4096 ≠ 15) : ¬ ReservedNumber w.toNat :=
    not_reservedNumber h0 (by omega) hF
  unfold decodeWords
  rw [group_toNat]
  split
  case h_1 h => exact decodeGroup0_eq_none h
  case h_2 h => exact iff_of_false (decodeGroup1_ne_none w) (hother (by omega) (by omega) (by omega))
  case h_3 h => exact iff_of_false (decodeGroup2_ne_none w) (hother (by omega) (by omega) (by omega))
  case h_9 h | h_11 h => exact iff_of_false (decodeDisp_ne_none w) (hother (by omega) (by omega) (by omega))
  case h_10 h => exact decodeGroup9_eq_none h w2
  case h_12 h => split <;> exact iff_of_false nofun (hother (by omega) (by omega) (by omega))
  case h_16 =>
    have hF : w.toNat / 4096 = 15 := by
      simp only [imp_false] at *
      omega
    exact decodeGroupF_eq_none hF
  all_goals exact iff_of_false nofun (hother (by omega) (by omega) (by omega))

end

/-- Settles O3: both sides say the same numbers. -/
theorem reservedWordsAreTheListed : Obligations.ReservedWordsAreTheListed := fun w w2 =>
  (decodeWords_eq_none w w2).trans (reservedRows_iff_number w).symm

end Sys2Proof
